-- ==== Sys2Proof/Word.lean ====
section
/-! DEFINITION. The words, bytes and aggregates of the block (00_scope.md R8, R10; 10_state.md R20). -/

namespace Sys2Proof

/-- A word: a 32-bit unsigned value (R8). -/
abbrev Word := BitVec 32

/-- A byte: 8 bits (R8). -/
abbrev Byte := BitVec 8

/-- A Block: eight words, word 0 first (R10). -/
abbrev Block := Vector Word 8

/-- A Stage: eight words, the unit of the history buffer (R10, R20). -/
abbrev Stage := Block

/-- An Acc: seventeen words, one half of the accumulator region (R10, R22). -/
abbrev Acc := Vector Word 17

/-- A History: thirty-two Stages (R10, R21). -/
abbrev History := Vector Stage 32

/-- `ZERO_BLOCK`: the Block of eight zero words (R10). -/
def zeroBlock : Block := Vector.replicate 8 0#32

/-- Seventeen zero words. -/
def zeroAcc : Acc := Vector.replicate 17 0#32

/-- Thirty-two zero Stages. -/
def zeroHistory : History := Vector.replicate 32 zeroBlock

end Sys2Proof
end

