-- ==== Sys2Proof/Syntax.lean ====
section
/-! DEFINITION. The commands of the block, one constructor per row of the opcode table (30_encoding.md R84). -/

namespace Sys2Proof

/-- A command with its fields as the command word gives them (R81, R82). `count`, `n` and `klen` are `ARG1`,
`nk` and `ivlen` are `ARG2`. The data a command takes is at the ports, not in the word (R80). -/
inductive Instr where
  /-- RESET, 40_engine.md R110. -/
  | reset
  /-- ITER, R122. -/
  | iter (count : BitVec 16)
  /-- ITER.P, R123. -/
  | iterP (count : BitVec 16)
  /-- ITER.O, R124. -/
  | iterO (count : BitVec 16)
  /-- ITER.PO, R125. -/
  | iterPO (count : BitVec 16)
  /-- ITER.K, R126. -/
  | iterK (nk : BitVec 8) (count : BitVec 16)
  /-- ITER.PK, R127. -/
  | iterPK (nk : BitVec 8) (count : BitVec 16)
  /-- ITER.KO, R128. -/
  | iterKO (nk : BitVec 8) (count : BitVec 16)
  /-- ITER.PKO, R129. -/
  | iterPKO (nk : BitVec 8) (count : BitVec 16)
  /-- HASH_INIT, 42_hash.md R180. -/
  | hashInit
  /-- HASH_BLOCK, R181. -/
  | hashBlock
  /-- HASH_FINAL, R182. -/
  | hashFinal (n : BitVec 16)
  /-- CIPHER_INIT, 43_cipher.md R210. -/
  | cipherInit (ivlen : BitVec 8) (klen : BitVec 16)
  /-- CIPHER_KS, R212. -/
  | cipherKs (count : BitVec 16)
  deriving DecidableEq, Repr

end Sys2Proof
end

