-- ==== Sys2Proof/WellFormed.lean ====
section
/-! DEFINITION. Which commands a legal command word can stand for (30_encoding.md R83, R85). -/

namespace Sys2Proof

/-- `1 <= NK <= COUNT`, the one constraint between fields (R83, R85). -/
def keyCountOk (nk : BitVec 8) (count : BitVec 16) : Bool :=
  decide (1 ≤ nk.toNat) && decide (nk.toNat ≤ count.toNat)

/-- Well-formed commands. `n`, `klen` and `ivlen` are not checked by the decoder: out of range they are legal
words that fail when the command runs (R85). -/
def Instr.wf : Instr → Bool
  | .reset => true
  | .iter _ => true
  | .iterP _ => true
  | .iterO _ => true
  | .iterPO _ => true
  | .iterK nk count => keyCountOk nk count
  | .iterPK nk count => keyCountOk nk count
  | .iterKO nk count => keyCountOk nk count
  | .iterPKO nk count => keyCountOk nk count
  | .hashInit => true
  | .hashBlock => true
  | .hashFinal _ => true
  | .cipherInit _ _ => true
  | .cipherKs _ => true

end Sys2Proof
end

