-- ==== Sys2Proof/Decode.lean ====
section
/-! DEFINITION. The decoder of command words, total, and the encoder (30_encoding.md R81 to R86). -/

namespace Sys2Proof

/-- Why a word is illegal. Each raises ILLEGAL_COMMAND (R85, 60_exceptions.md R235). -/
inductive IllegalWord where
  /-- `OPC` is 0x0 or 0x8 to 0xF. -/
  | reservedOpcode
  /-- A must-be-zero bit of the command is set. -/
  | reservedBits
  /-- ITERATE with `K = 1` and `NK` outside 1 to `COUNT`. -/
  | badKeyCount
  deriving DecidableEq, Repr

/-- `OPC`, bits 31:28 (R81). -/
def opcOf (w : Word) : BitVec 4 := w.extractLsb' 28 4

/-- Bits 27:24: the flags `K`, `O`, `P` and the reserved bit 24, `K` most significant (R81). -/
def flagsOf (w : Word) : BitVec 4 := w.extractLsb' 24 4

/-- `ARG2`, bits 23:16 (R81). -/
def arg2Of (w : Word) : BitVec 8 := w.extractLsb' 16 8

/-- `ARG1`, bits 15:0 (R81). -/
def arg1Of (w : Word) : BitVec 16 := w.extractLsb' 0 16

/-- The information byte of ILLEGAL_COMMAND, bits 31:24 (60_exceptions.md R231). -/
def topByteOf (w : Word) : BitVec 8 := w.extractLsb' 24 8

/-- `i` if every must-be-zero bit is zero (R85). -/
def needZero (zero : Bool) (i : Instr) : Except IllegalWord Instr :=
  if zero then .ok i else .error .reservedBits

/-- `i` if `1 <= NK <= COUNT` (R85). -/
def needKeyCount (nk : BitVec 8) (count : BitVec 16) (i : Instr) : Except IllegalWord Instr :=
  if keyCountOk nk count then .ok i else .error .badKeyCount

/-- ITERATE, told apart by `K O P`; bit 24 must be 0, and `ARG2` must be 0 unless `K = 1` (R84, R85). -/
def decodeIter (w : Word) : Except IllegalWord Instr :=
  match (flagsOf w).toNat with
  | 0b0000 => needZero (arg2Of w == 0) (.iter (arg1Of w))
  | 0b0010 => needZero (arg2Of w == 0) (.iterP (arg1Of w))
  | 0b0100 => needZero (arg2Of w == 0) (.iterO (arg1Of w))
  | 0b0110 => needZero (arg2Of w == 0) (.iterPO (arg1Of w))
  | 0b1000 => needKeyCount (arg2Of w) (arg1Of w) (.iterK (arg2Of w) (arg1Of w))
  | 0b1010 => needKeyCount (arg2Of w) (arg1Of w) (.iterPK (arg2Of w) (arg1Of w))
  | 0b1100 => needKeyCount (arg2Of w) (arg1Of w) (.iterKO (arg2Of w) (arg1Of w))
  | 0b1110 => needKeyCount (arg2Of w) (arg1Of w) (.iterPKO (arg2Of w) (arg1Of w))
  | _ => .error .reservedBits

/-- The decoder: `OPC` first, then the must-be-zero bits, then the key count (R85). -/
def decode (w : Word) : Except IllegalWord Instr :=
  match (opcOf w).toNat with
  | 0x1 => needZero (flagsOf w == 0 && arg2Of w == 0 && arg1Of w == 0) .reset
  | 0x2 => decodeIter w
  | 0x3 => needZero (flagsOf w == 0 && arg2Of w == 0 && arg1Of w == 0) .hashInit
  | 0x4 => needZero (flagsOf w == 0 && arg2Of w == 0 && arg1Of w == 0) .hashBlock
  | 0x5 => needZero (flagsOf w == 0 && arg2Of w == 0) (.hashFinal (arg1Of w))
  | 0x6 => needZero (flagsOf w == 0) (.cipherInit (arg2Of w) (arg1Of w))
  | 0x7 => needZero (flagsOf w == 0 && arg2Of w == 0) (.cipherKs (arg1Of w))
  | _ => .error .reservedOpcode

/-- A command word from its top byte (`OPC` and the flags), `ARG2` and `ARG1` (R81). -/
def mkWord (top arg2 : BitVec 8) (arg1 : BitVec 16) : Word := top ++ arg2 ++ arg1

/-- The encoder, from the words of R84. -/
def encode : Instr → Word
  | .reset => mkWord 0x10 0 0
  | .iter count => mkWord 0x20 0 count
  | .iterP count => mkWord 0x22 0 count
  | .iterO count => mkWord 0x24 0 count
  | .iterPO count => mkWord 0x26 0 count
  | .iterK nk count => mkWord 0x28 nk count
  | .iterPK nk count => mkWord 0x2A nk count
  | .iterKO nk count => mkWord 0x2C nk count
  | .iterPKO nk count => mkWord 0x2E nk count
  | .hashInit => mkWord 0x30 0 0
  | .hashBlock => mkWord 0x40 0 0
  | .hashFinal n => mkWord 0x50 0 n
  | .cipherInit ivlen klen => mkWord 0x60 ivlen klen
  | .cipherKs count => mkWord 0x70 0 count

/-- The command the decoder reads from a word whose low `nbits` bits are `w`, the bits above being 0. -/
def decodeTableWord (nbits w : Nat) : Option Instr :=
  (decode (BitVec.ofNat 32 (w % 2 ^ nbits))).toOption

end Sys2Proof
end

