-- ==== Sys2Proof/Config.lean ====
section
/-! DEFINITION. What an instance fixes and what the spec leaves open: byte order, the configuration record of the step, and the
free values (00_scope.md R7; 92_eei_decisions.md section 2). -/

namespace Sys2Proof

/-- `WORD_ORDER`, fixed per instance at construction (20_memory.md R54). -/
inductive WordOrder where
  /-- The first byte of a word is least significant. -/
  | le
  /-- The first byte of a word is most significant. -/
  | be
  deriving DecidableEq, Repr

/-- Which configuration record an instance has. `inst n` is the `n`-th record the spec does not reproduce: a
statement about every state holds for every such record (R7, R119). -/
inductive CfgSel where
  /-- `cfg_ref`, 41_reference_diffusion.md R150. -/
  | ref
  /-- An OPEN record, uninterpreted. -/
  | inst (n : Nat)
  deriving DecidableEq, Repr

/-- The configuration record of the step. Each function depends on its arguments and on nothing else
(40_engine.md R112; 41_reference_diffusion.md R150). The first optional Block is the push, the second the key. -/
structure Cfg where
  /-- `TAP`: the output Block from the accumulator and the evicted Stage. -/
  tap : Acc → Stage → Block
  /-- `ACC_STEP`: the next accumulator. -/
  accStep : Acc → History → Option Block → Option Block → Acc
  /-- `BUF_STEP`: the next logical history. -/
  bufStep : Acc → History → Option Block → Option Block → History
  /-- `SCRATCH_STEP`: the next scratch half. -/
  scratchStep : Acc → History → Option Block → Option Block → Acc
  deriving Inhabited

/-- The OPEN configuration records (D3). FREE VALUE: nothing constrains it. -/
opaque Config.freeCfg : Nat → Cfg

/-- `KEY_ACC`: the accumulator after a step with a key Block, OPEN (R114, R160, D4). FREE VALUE. -/
opaque Config.keyAcc : Acc → History → Option Block → Block → Acc

/-- `KEY_BUF`: the logical history after a step with a key Block, OPEN (R114, R160, D4). FREE VALUE. -/
opaque Config.keyBuf : Acc → History → Option Block → Block → History

/-- `KEY_SCRATCH`: the scratch half after a step with a key Block, OPEN (R114, R160, D4). FREE VALUE. -/
opaque Config.keyScratch : Acc → History → Option Block → Block → Acc

/-- The accumulator after the `n`-th contract violation, unspecified (60_exceptions.md R234). FREE VALUE. -/
opaque Config.freeA : Nat → Acc

/-- The scratch half after the `n`-th contract violation, unspecified (R234). FREE VALUE. -/
opaque Config.freeC : Nat → Acc

/-- The history buffer after the `n`-th contract violation, unspecified (R234). FREE VALUE. -/
opaque Config.freeB : Nat → History

/-- The cursor after the `n`-th contract violation, unspecified (R234). FREE VALUE. -/
opaque Config.freeBstart : Nat → Fin 32

end Sys2Proof
end

