-- ==== Sys2Proof/Machine/Diffusion.lean ====
section
/-! DEFINITION. The reference configuration record `cfg_ref` (41_reference_diffusion.md), and which record an instance has.
Every formula here is the spec's reference value, which the spec marks as general knowledge (log entry 3). -/

namespace Sys2Proof.Machine

/-- `X ^ Y` on two Blocks, word by word (00_scope.md R10). -/
def xorBlock (x y : Block) : Block := Vector.ofFn fun i : Fin 8 => x[i] ^^^ y[i]

/-- `rotl(x, n)` for `0 <= n <= 31` (00_scope.md R9). -/
def rotl (x : Word) (n : Nat) : Word := if n = 0 then x else (x <<< n) ||| (x >>> (32 - n))

/-- γ: `G[i] = A[i] ^ (A[i+1] | ~A[i+2])`, indices mod 17 (R151). -/
def gammaPass (A : Acc) : Acc := Vector.ofFn fun i : Fin 17 => A[i] ^^^ (A[i + 1] ||| ~~~A[i + 2])

/-- π: `C[i] = rotl(G[7i mod 17], i(i+1)/2 mod 32)` (R152). -/
def piPass (G : Acc) : Acc := Vector.ofFn fun i : Fin 17 => rotl G[7 * i] (i.val * (i.val + 1) / 2 % 32)

/-- θ: `T[i] = C[i] ^ C[i+1] ^ C[i+4]`, indices mod 17 (R153). -/
def thetaPass (C : Acc) : Acc := Vector.ofFn fun i : Fin 17 => C[i] ^^^ C[i + 1] ^^^ C[i + 4]

/-- σ: 1 into word 0, the push Block or `H[4]` into words 1 to 8, `H[16]` into words 9 to 16 (R154). -/
def sigmaPass (T : Acc) (H : History) (p : Option Block) : Acc :=
  Vector.ofFn fun i : Fin 17 =>
    if h0 : i.val = 0 then T[i] ^^^ 1#32
    else if h8 : i.val ≤ 8 then T[i] ^^^ (p.getD H[4])[i.val - 1]
    else T[i] ^^^ H[16][i.val - 9]

/-- λ: the new head, the rewritten stage 25, every other stage one place older (R155). -/
def lambdaPass (A : Acc) (H : History) (p : Option Block) : History :=
  Vector.ofFn fun j : Fin 32 =>
    if j = 0 then xorBlock H[31] (p.getD (Vector.ofFn fun i : Fin 8 => A[i.val + 1]))
    else if j = 25 then Vector.ofFn fun i : Fin 8 => H[24][i] ^^^ H[31][i + 2]
    else H[j - 1]

/-- The tap of `cfg_ref`: words 9 to 16 of the accumulator; the evicted stage takes no part (R156). -/
def refTap (A : Acc) (_ev : Stage) : Block := Vector.ofFn fun i : Fin 8 => A[i.val + 9]

/-- The accumulator of `cfg_ref`: σ after θ after π after γ; OPEN with a key Block (R158, R160). -/
def refAccStep (A : Acc) (H : History) (p k : Option Block) : Acc :=
  match k with
  | none => sigmaPass (thetaPass (piPass (gammaPass A))) H p
  | some k => Config.keyAcc A H p k

/-- The history of `cfg_ref`: λ; OPEN with a key Block (R159, R160). -/
def refBufStep (A : Acc) (H : History) (p k : Option Block) : History :=
  match k with
  | none => lambdaPass A H p
  | some k => Config.keyBuf A H p k

/-- The scratch half of `cfg_ref`: the words of π; OPEN with a key Block (R157, R160). -/
def refScratchStep (A : Acc) (H : History) (p k : Option Block) : Acc :=
  match k with
  | none => piPass (gammaPass A)
  | some k => Config.keyScratch A H p k

/-- `cfg_ref` (R150). -/
def cfgRef : Cfg where
  tap := refTap
  accStep := refAccStep
  bufStep := refBufStep
  scratchStep := refScratchStep

/-- The configuration record of an instance (00_scope.md R7). -/
def cfgOf : CfgSel → Cfg
  | .ref => cfgRef
  | .inst n => Config.freeCfg n

end Sys2Proof.Machine
end

