-- ==== Sys2Proof/Machine/Strap.lean ====
section
/-! DEFINITION. The straps of the instance that State.reset describes. The spec gives no value for them; every statement about
all states holds for every strap (log entries 1, 2, 3). -/

namespace Sys2Proof.Machine

/-- DESIGN CHOICE (log entry 1): `WORD_ORDER` of the instance at reset. -/
def strapOrder : WordOrder := .le

/-- DESIGN CHOICE (log entry 2): `N_CIPHER_BLANK` of the instance at reset. -/
def strapNBlank : BitVec 8 := 1

/-- DESIGN CHOICE (log entry 3): the configuration record of the instance at reset. -/
def strapCfg : CfgSel := .ref

end Sys2Proof.Machine
end

