-- ==== Sys2Proof/Machine/State.lean ====
section
/-! DEFINITION. The state of the block and of its ports, as plain data (10_state.md; 30_encoding.md R80). -/

namespace Sys2Proof.Machine

/-- `PHASE`: which controller, if any, owns the engine (R26). -/
inductive Phase where
  /-- No controller owns the engine. -/
  | raw
  /-- The hash controller is taking message blocks. -/
  | hashAbsorbing
  /-- The hash controller has delivered a digest. -/
  | hashFinalized
  /-- The cipher controller delivers keystream. -/
  | cipherReady
  /-- A contract violation happened. -/
  | faulted
  deriving DecidableEq, Repr

/-- The error codes 0 to 6 (60_exceptions.md R231). -/
inductive ErrCode where
  /-- Code 0. -/
  | ok
  /-- Code 1, raised by CIPHER_INIT. -/
  | invalidKeyLength
  /-- Code 2, raised by HASH_FINAL. -/
  | invalidTruncation
  /-- Code 3, the fatal fault. -/
  | contractViolation
  /-- Code 4, raised by the decoder. -/
  | illegalCommand
  /-- Code 5, a legal command in a phase that does not allow it. -/
  | phaseError
  /-- Code 6, the answer to every command while `FAULT = 1`. -/
  | deviceFaulted
  deriving DecidableEq, Repr

/-- The data ports of a request; `none` is the source's absent argument (30_encoding.md R80). -/
structure Ports where
  /-- `pushBlocks`. -/
  push : Option (List Block)
  /-- `keyBlocks`. -/
  key : Option (List Block)
  /-- Message block, padded block, or cipher key. -/
  bytes1 : Option (List Byte)
  /-- Cipher IV. -/
  bytes2 : Option (List Byte)
  deriving DecidableEq, Repr

/-- No data at any port. -/
def noPorts : Ports := ⟨none, none, none, none⟩

/-- A request: the command word and the data ports (R80). -/
structure Request where
  /-- The 32-bit command word. -/
  cw : Word
  /-- The data presented with it. -/
  ports : Ports
  deriving DecidableEq, Repr

/-- A response (R80). -/
structure Response where
  /-- 0 is success. -/
  code : ErrCode
  /-- The information byte of R231. -/
  info : BitVec 8
  /-- `outputBlocks`; empty unless ITERATE with `O`. -/
  outw : List Block
  /-- Digest or keystream bytes; empty unless HASH_FINAL or CIPHER_KS. -/
  outb : List Byte
  deriving DecidableEq, Repr

/-- What the host can do to the block: present a request, use the register side port, assert hard reset
(R80; 10_state.md R29; 70_reset_and_hazards.md R270). -/
inductive HostEvent where
  /-- One command. -/
  | request (r : Request)
  /-- The reset input. -/
  | hardReset
  /-- A read of register `num` through the side port. -/
  | readReg (num : Nat)
  /-- A write to register `num` through the side port. -/
  | writeReg (num : Nat) (v : Word)
  deriving DecidableEq, Repr

/-- The engine state, "the pair (StateBuffer, CursorOffset)" (10_state.md R24). -/
structure Engine where
  /-- The accumulator `a[0..16]` (R22). -/
  a : Acc
  /-- The scratch half `c[0..16]` (R22, R32). -/
  c : Acc
  /-- The history buffer by physical slot, `b[0..31]` (R21). -/
  b : History
  /-- The cursor, in 0 to 31 (R23). -/
  bstart : Fin 32
  deriving DecidableEq, Repr

/-- The engine after "zeroes the entire StateBuffer and resets CursorOffset to 0" (R31, 40_engine.md R110). -/
def Engine.zero : Engine := ⟨zeroAcc, zeroAcc, zeroHistory, 0⟩

/-- Everything the spec gives the block, its ports, and three fields of the model's own (`cfg`, `inbox`,
`draws`; INVENTORY.md, State). -/
structure State where
  /-- The engine state (R24). -/
  eng : Engine
  /-- `PHASE` (R26). -/
  phase : Phase
  /-- `FAULT` (R27). -/
  fault : Bool
  /-- `ERRCODE` (R28). -/
  errcode : ErrCode
  /-- `ERRINFO` (R28). -/
  errinfo : BitVec 8
  /-- `CONFIG.ORDER`, the strap `WORD_ORDER` (R29, 20_memory.md R54). -/
  order : WordOrder
  /-- `CONFIG.NBLANK`, the strap `N_CIPHER_BLANK` (R29). -/
  nblank : BitVec 8
  /-- The MODEL's own: which configuration record the instance has (log entry 3). -/
  cfg : CfgSel
  /-- The data ports of the request being run; empty between commands (R80, R33). -/
  din : Ports
  /-- The response port: the response to the last command since hard reset (R80). -/
  resp : Option Response
  /-- The side port: its last answer since hard reset (R29). -/
  rdata : Option Word
  /-- The MODEL's own: what the host is still to present, in order (log entry 4). -/
  inbox : List HostEvent
  /-- The MODEL's own: how many contract violations have left the engine unspecified (log entry 6). -/
  draws : Nat
  deriving DecidableEq, Repr

/-- The state right after hard reset (10_state.md R31), with the straps of Strap.lean and a silent host. -/
def State.reset : State where
  eng := Engine.zero
  phase := .raw
  fault := false
  errcode := .ok
  errinfo := 0
  order := strapOrder
  nblank := strapNBlank
  cfg := strapCfg
  din := noPorts
  resp := none
  rdata := none
  inbox := []
  draws := 0

/-- Reasons to stop with a fault. There is none: every error of the block is a response and a next state
(60_exceptions.md R230, R238). -/
inductive Fault where
  deriving DecidableEq, Repr

/-- Reasons to refuse an instruction. -/
inductive Refusal where
  /-- An arm of exec without a meaning; raised by no arm of this model. Safe: the machine stops. -/
  | notModelled (mnemonic : String)
  deriving DecidableEq, Repr

end Sys2Proof.Machine
end

