-- ==== Sys2Proof/Machine/Flags.lean ====
section
/-! DEFINITION. The status fields as bits, and the two registers the host can read (10_state.md R26 to R29; 60_exceptions.md
R231). -/

namespace Sys2Proof.Machine

/-- The number of a phase, 3 bits (R26). -/
def phaseBits : Phase → BitVec 3
  | .raw => 0
  | .hashAbsorbing => 1
  | .hashFinalized => 2
  | .cipherReady => 3
  | .faulted => 7

/-- The number of an error code, 4 bits (R231). -/
def codeBits : ErrCode → BitVec 4
  | .ok => 0
  | .invalidKeyLength => 1
  | .invalidTruncation => 2
  | .contractViolation => 3
  | .illegalCommand => 4
  | .phaseError => 5
  | .deviceFaulted => 6

/-- `CONFIG.ORDER`: 0 is LE, 1 is BE (R29). -/
def orderBit : WordOrder → BitVec 1
  | .le => 0
  | .be => 1

/-- `CONFIG`: bit 0 `ORDER`, bits 15:8 `NBLANK`, the rest 0 (R29). -/
def configReg (s : State) : Word := 0#16 ++ s.nblank ++ 0#7 ++ orderBit s.order

/-- `STATUS`: `PHASE` 2:0, `FAULT` 3, `ERRCODE` 7:4, `ERRINFO` 15:8, the rest 0 (R29). -/
def statusReg (s : State) : Word :=
  0#16 ++ s.errinfo ++ codeBits s.errcode ++ BitVec.ofBool s.fault ++ phaseBits s.phase

/-- A register read: CONFIG is number 0, STATUS number 1, any other number reads 0 (R29). -/
def regValue (num : Nat) (s : State) : Word :=
  match num with
  | 0 => configReg s
  | 1 => statusReg s
  | _ => 0

/-- The information byte of PHASE_ERROR: the current `PHASE` (60_exceptions.md R231). -/
def phaseInfo (p : Phase) : BitVec 8 := (phaseBits p).setWidth 8

/-- The information byte of INVALID_TRUNCATION: `min(n, 255)` (60_exceptions.md R231). -/
def truncInfo (n : Nat) : BitVec 8 := BitVec.ofNat 8 (min n 255)

end Sys2Proof.Machine
end

