-- ==== Sys2Proof/Machine/Operands.lean ====
section
/-! DEFINITION. The operands of commands: byte order (20_memory.md), the step inputs and list checks of ITERATE (40_engine.md
R111), key and IV blocks (43_cipher.md R211). -/

namespace Sys2Proof.Machine

/-- Four bytes, first byte first, to a word (20_memory.md R55). -/
def wordOfBytes (o : WordOrder) (y0 y1 y2 y3 : Byte) : Word :=
  match o with
  | .le => y3 ++ y2 ++ y1 ++ y0
  | .be => y0 ++ y1 ++ y2 ++ y3

/-- A word to four bytes, first byte first (R55). -/
def bytesOfWord (o : WordOrder) (w : Word) : List Byte :=
  match o with
  | .le => [w.extractLsb' 0 8, w.extractLsb' 8 8, w.extractLsb' 16 8, w.extractLsb' 24 8]
  | .be => [w.extractLsb' 24 8, w.extractLsb' 16 8, w.extractLsb' 8 8, w.extractLsb' 0 8]

/-- `BytesToBlock(y)` for 32 bytes (R55). No command calls it on another length. -/
def bytesToBlock (o : WordOrder) (y : List Byte) : Block :=
  Vector.ofFn fun i : Fin 8 =>
    wordOfBytes o (y.getD (4 * i.val) 0) (y.getD (4 * i.val + 1) 0) (y.getD (4 * i.val + 2) 0)
      (y.getD (4 * i.val + 3) 0)

/-- `BlockToBytes(w)`: 32 bytes, word 0 first (R55). -/
def blockToBytes (o : WordOrder) (w : Block) : List Byte :=
  (List.finRange 8).flatMap fun i => bytesOfWord o w[i]

/-- `KeyBlocks(y)`: a key or IV of 32 to 64 bytes, zero-padded at the end to one Block if it has 32 bytes and to
two Blocks otherwise (43_cipher.md R211). -/
def keyBlocks (o : WordOrder) (y : List Byte) : List Block :=
  let m := if y.length = 32 then 1 else 2
  let y' := y ++ List.replicate (32 * m - y.length) 0
  (List.range m).map fun t => bytesToBlock o ((y'.drop (32 * t)).take 32)

/-- Whether a list at a port breaks its contract: wanted with exactly `n` elements, or not wanted
(40_engine.md R111; 60_exceptions.md R234). -/
def listBad {α : Type} (wanted : Bool) (n : Nat) (l : Option (List α)) : Bool :=
  match wanted, l with
  | true, some l => l.length != n
  | true, none => true
  | false, l => l.isSome

/-- The violation bits of ITERATE: bit 0 the push list, bit 1 the key list (R111). -/
def iterViol (P K : Bool) (nk count : Nat) (d : Ports) : BitVec 8 :=
  (if listBad P count d.push then 0x01#8 else 0) ||| (if listBad K nk d.key then 0x02#8 else 0)

/-- The violation bits of HASH_BLOCK and HASH_FINAL: bit 2, `bytes1` is not 32 bytes (42_hash.md R181). -/
def hashViol (d : Ports) : BitVec 8 := if listBad true 32 d.bytes1 then 0x04#8 else 0

/-- The violation bits of CIPHER_INIT: bit 2 the key, bit 3 the IV (43_cipher.md R210). -/
def cipherViol (klen ivlen : Nat) (d : Ports) : BitVec 8 :=
  (if listBad true klen d.bytes1 then 0x04#8 else 0) ||| (if listBad true ivlen d.bytes2 then 0x08#8 else 0)

/-- What one step takes: the push Block and the key Block (40_engine.md R112). -/
abbrev StepInput := Option Block × Option Block

/-- Element `t` of the list at a port. -/
def portElem (l : Option (List Block)) (t : Nat) : Option Block := l.bind fun l => l[t]?

/-- The inputs of steps `0 .. COUNT-1`: the push Block of every step if `P`, the key Block of the first `NK` steps
if `K` (R111; 30_encoding.md R83). -/
def iterInputs (P K : Bool) (nk count : Nat) (d : Ports) : List StepInput :=
  (List.range count).map fun t =>
    (if P then portElem d.push t else none, if K && decide (t < nk) then portElem d.key t else none)

/-- `m` steps with no push and no key. -/
def emptyInputs (m : Nat) : List StepInput := List.replicate m (none, none)

/-- Steps that absorb key Blocks by the key path (43_cipher.md R210). -/
def keyInputs (l : List Block) : List StepInput := l.map fun k => (none, some k)

/-- The inputs of cipher setup: key Blocks, IV Blocks, `N_CIPHER_BLANK` blank steps (43_cipher.md R210). -/
def cipherInputs (o : WordOrder) (nblank : Nat) (key iv : List Byte) : List StepInput :=
  keyInputs (keyBlocks o key) ++ keyInputs (keyBlocks o iv) ++ emptyInputs nblank

end Sys2Proof.Machine
end

