-- ==== Sys2Proof/Machine/Ops.lean ====
section
/-! DEFINITION. The named operations: the storage of the history, the single step and runs of steps, responses and errors, the
phase check, hard reset and the register side port. -/

namespace Sys2Proof.Machine

/-! ### The history buffer (10_state.md R25; 20_memory.md R51, R52) -/

/-- The word address of word `i` of physical slot `s`: `8*s + i` (R52). -/
def wordAddr (s i : Nat) : Nat := 8 * s + i

/-- `MemRead(addr, 1)`: the word at a word address; there is none outside 0 to 255 (R52). -/
def memReadWord (b : History) (addr : Nat) : Option Word :=
  if h : addr < 256 then some b[addr / 8][addr % 8] else none

/-- `MemRead(8*s, 8)`: the Stage at a Stage-aligned word address; no other alignment exists (R52). -/
def memReadStage (b : History) (addr : Nat) : Option Stage :=
  if h : addr < 256 ∧ addr % 8 = 0 then some b[addr / 8] else none

/-- `MemWrite(8*s, 8, S)` (R52). -/
def memWriteStage (b : History) (addr : Nat) (S : Stage) : Option History :=
  if h : addr < 256 ∧ addr % 8 = 0 then some (b.set (addr / 8) S) else none

/-- `MemWrite(addr, 1, v)` (R52). -/
def memWriteWord (b : History) (addr : Nat) (v : Word) : Option History :=
  if h : addr < 256 then some (b.set (addr / 8) (b[addr / 8].set (addr % 8) v)) else none

/-- The physical slot of logical stage `j`: `(bstart + j) mod 32` (R51). -/
def slotOf (bstart j : Fin 32) : Fin 32 := bstart + j

/-- The logical history `B[0..31]`: `B[j] = b[(bstart + j) mod 32]` (R25). -/
def logicalOf (bstart : Fin 32) (b : History) : History := Vector.ofFn fun j : Fin 32 => b[slotOf bstart j]

/-- The physical history that has logical history `H` under a cursor: `b[(bstart + j) mod 32] <- H[j]` (R112). -/
def physicalOf (bstart : Fin 32) (H : History) : History := Vector.ofFn fun s : Fin 32 => H[s - bstart]

/-- The logical view of an engine (R25). -/
def Engine.logical (e : Engine) : History := logicalOf e.bstart e.b

/-! ### The step (40_engine.md R112 to R118) -/

/-- `STRIDE` (00_scope.md R7). -/
def stride : Fin 32 := 31

/-- STEP: every right-hand side reads the engine before the step (R112, R120). -/
def engineStep (cfg : Cfg) (i : StepInput) (pull : Bool) (e : Engine) : Engine × Option Block :=
  let H := e.logical
  let next := e.bstart + stride
  (⟨cfg.accStep e.a H i.1 i.2, cfg.scratchStep e.a H i.1 i.2, physicalOf next (cfg.bufStep e.a H i.1 i.2), next⟩,
    if pull then some (cfg.tap e.a H[31]) else none)

/-- A run of consecutive steps: the engine after it, and the output Blocks in order (R111). -/
def engineRun (cfg : Cfg) (pull : Bool) : List StepInput → Engine → Engine × List Block
  | [], e => (e, [])
  | i :: is, e =>
    let r := engineStep cfg i pull e
    let q := engineRun cfg pull is r.1
    (q.1, r.2.toList ++ q.2)

/-! ### Named updates of the state -/

/-- The engine replaced. -/
def setEng (e : Engine) (s : State) : State := { s with eng := e }

/-- `PHASE <- p`. -/
def setPhase (p : Phase) (s : State) : State := { s with phase := p }

/-- `ERRCODE <- code ; ERRINFO <- info` (10_state.md R28). -/
def setResult (code : ErrCode) (info : BitVec 8) (s : State) : State := { s with errcode := code, errinfo := info }

/-- The response is given and the command's data is gone from the ports (30_encoding.md R80; 10_state.md R33). -/
def respond (r : Response) (s : State) : State := { s with resp := some r, din := noPorts }

/-- `FAULT <- 1`. -/
def setFault (s : State) : State := { s with fault := true }

/-- The engine left unspecified: the next free values (60_exceptions.md R234; log entry 6). -/
def scramble (s : State) : State :=
  { s with
    eng := ⟨Config.freeA s.draws, Config.freeC s.draws, Config.freeB s.draws, Config.freeBstart s.draws⟩
    draws := s.draws + 1 }

/-- The side port answers. -/
def setRdata (v : Word) (s : State) : State := { s with rdata := some v }

/-- The host's next event is taken from the inbox. -/
def setInbox (l : List HostEvent) (s : State) : State := { s with inbox := l }

/-- The data of a request stands at the ports (30_encoding.md R80). -/
def setDin (d : Ports) (s : State) : State := { s with din := d }

/-! ### Success and errors (60_exceptions.md) -/

/-- Success: code 0, and `ERRCODE`, `ERRINFO` become 0 (10_state.md R28). -/
def succeed (outw : List Block) (outb : List Byte) (s : State) : State :=
  respond ⟨.ok, 0, outw, outb⟩ (setResult .ok 0 s)

/-- `raise <Error>(info)`, the one entry of every error. DEVICE_FAULTED changes nothing but the response (R240);
CONTRACT_VIOLATION is fatal and leaves the engine unspecified (R234); every other error is recoverable and
changes `ERRCODE` and `ERRINFO` only (R230). There is no handler to enter and no return (R238, R239). -/
def raiseError (code : ErrCode) (info : BitVec 8) (s : State) : State :=
  match code with
  | .deviceFaulted => respond ⟨code, info, [], []⟩ s
  | .contractViolation =>
    respond ⟨code, info, [], []⟩ (scramble (setFault (setPhase .faulted (setResult code info s))))
  | _ => respond ⟨code, info, [], []⟩ (setResult code info s)

/-- The first check of every command: while `FAULT = 1` it is refused with DEVICE_FAULTED (R237, R240). -/
def unlessFaulted (body : State → State) (s : State) : State :=
  if s.fault then raiseError .deviceFaulted 0 s else body s

/-- The FAULT check, then the phase check: PHASE_ERROR unless the phase allows the command (R236, R237, R246). -/
def inPhase (allowed : Phase) (body : State → State) (s : State) : State :=
  unlessFaulted (fun s => if s.phase = allowed then body s else raiseError .phaseError (phaseInfo s.phase) s) s

/-- The contract check: CONTRACT_VIOLATION if any violation bit is set (R234, R237). -/
def unlessViol (viol : BitVec 8) (body : State → State) (s : State) : State :=
  if viol = 0 then body s else raiseError .contractViolation viol s

/-- A word that does not decode: ILLEGAL_COMMAND with `cw[31:24]`, unless the block is faulted (R235, R237). -/
def illegalCommand (cw : Word) (s : State) : State :=
  unlessFaulted (raiseError .illegalCommand (topByteOf cw)) s

/-! ### Shared parts of the commands -/

/-- The engine effect of RESET (40_engine.md R110). -/
def zeroEngine (s : State) : State := setEng Engine.zero s

/-- The steps of a command on the state's engine, with the instance's configuration record (R111). -/
def runOf (pull : Bool) (l : List StepInput) (s : State) : Engine × List Block := engineRun (cfgOf s.cfg) pull l s.eng

/-- ITERATE with flags `P`, `O`, `K` (40_engine.md R111). -/
def iterate (P O K : Bool) (nk count : Nat) (s : State) : State :=
  inPhase .raw (fun s => unlessViol (iterViol P K nk count s.din) (fun s =>
    let r := runOf O (iterInputs P K nk count s.din) s
    succeed r.2 [] (setEng r.1 s)) s) s

/-- The Block at `bytes1` (42_hash.md R181), read only after the contract check. -/
def messageBlock (s : State) : Block := bytesToBlock s.order (s.din.bytes1.getD [])

/-- The engine after one push step of the Block at `bytes1` (42_hash.md R181, R182). -/
def pushMessage (s : State) : State := setEng (runOf false [(some (messageBlock s), none)] s).1 s

/-! ### The reset input, the side port and the silent host -/

/-- Hard reset: all engine words 0, `bstart` 0, phase RAW, `FAULT`, `ERRCODE`, `ERRINFO` 0, CONFIG as strapped
(10_state.md R31; 70_reset_and_hazards.md R270). The ports fall silent (log entry 5). -/
def hardReset (s : State) : State :=
  { s with
    eng := Engine.zero, phase := .raw, fault := false, errcode := .ok, errinfo := 0
    din := noPorts, resp := none, rdata := none }

/-- A register read through the side port: no other effect (10_state.md R29). -/
def readReg (num : Nat) (s : State) : State := setRdata (regValue num s) s

/-- A register write through the side port "does nothing and reads as 0" (10_state.md R29; log entry 8). -/
def writeReg (_num : Nat) (_v : Word) (s : State) : State := setRdata 0 s

/-- Nothing is presented: the block does nothing (log entry 4). -/
def idle (s : State) : State := s

end Sys2Proof.Machine
end

