-- ==== Sys2Proof/Machine/Cipher.lean ====
section
/-! DEFINITION. The stream-cipher keystream controller: CIPHER_INIT, CIPHER_KS (43_cipher.md R210 to R213). -/

namespace Sys2Proof.Machine

/-- 32 to 64, the legal key and IV lengths (00_scope.md R6; R210). -/
def keyLenOk (n : Nat) : Bool := decide (32 ≤ n) && decide (n ≤ 64)

/-- The end of CIPHER_INIT: the engine effect of RESET, key steps, IV steps, blank steps, phase CIPHER_READY
(R210). The key and IV leave with the ports (10_state.md R33). -/
def absorbKey (s : State) : State :=
  let key := s.din.bytes1.getD []
  let iv := s.din.bytes2.getD []
  let r := runOf false (cipherInputs s.order s.nblank.toNat key iv) (zeroEngine s)
  succeed [] [] (setPhase .cipherReady (setEng r.1 s))

/-- CIPHER_INIT (R210): the key length, the IV length, the contract, then the setup, in every phase but FAULTED. -/
def execCipherInit (ivlen : BitVec 8) (klen : BitVec 16) (s : State) : Host.Outcome State Fault Refusal :=
  .next (unlessFaulted (fun s =>
    if keyLenOk klen.toNat then
      if keyLenOk ivlen.toNat then unlessViol (cipherViol klen.toNat ivlen.toNat s.din) absorbKey s
      else raiseError .invalidKeyLength 1 s
    else raiseError .invalidKeyLength 0 s) s)

/-- CIPHER_KS (R212): `COUNT` pull steps, `32*COUNT` keystream bytes. -/
def execCipherKs (count : BitVec 16) (s : State) : Host.Outcome State Fault Refusal :=
  .next (inPhase .cipherReady (fun s =>
    let r := runOf true (emptyInputs count.toNat) s
    succeed [] (r.2.flatMap (blockToBytes s.order)) (setEng r.1 s)) s)

end Sys2Proof.Machine
end

