-- ==== Sys2Proof/Machine/Engine.lean ====
section
/-! DEFINITION. The engine commands RESET and ITERATE in its eight variants (40_engine.md R110, R122 to R129). -/

namespace Sys2Proof.Machine

/-- RESET (R110): the engine zeroed, phase RAW, in every phase but FAULTED. -/
def execReset (s : State) : Host.Outcome State Fault Refusal :=
  .next (unlessFaulted (fun s => succeed [] [] (setPhase .raw (zeroEngine s))) s)

/-- ITER (R122): `COUNT` blank steps. -/
def execIter (count : BitVec 16) (s : State) : Host.Outcome State Fault Refusal :=
  .next (iterate false false false 0 count.toNat s)

/-- ITER.P (R123): `COUNT` push steps. -/
def execIterP (count : BitVec 16) (s : State) : Host.Outcome State Fault Refusal :=
  .next (iterate true false false 0 count.toNat s)

/-- ITER.O (R124): `COUNT` pull steps. -/
def execIterO (count : BitVec 16) (s : State) : Host.Outcome State Fault Refusal :=
  .next (iterate false true false 0 count.toNat s)

/-- ITER.PO (R125): `COUNT` duplex steps. -/
def execIterPO (count : BitVec 16) (s : State) : Host.Outcome State Fault Refusal :=
  .next (iterate true true false 0 count.toNat s)

/-- ITER.K (R126): `NK` key steps, then blank steps. -/
def execIterK (nk : BitVec 8) (count : BitVec 16) (s : State) : Host.Outcome State Fault Refusal :=
  .next (iterate false false true nk.toNat count.toNat s)

/-- ITER.PK (R127): push steps, the first `NK` with a key Block. -/
def execIterPK (nk : BitVec 8) (count : BitVec 16) (s : State) : Host.Outcome State Fault Refusal :=
  .next (iterate true false true nk.toNat count.toNat s)

/-- ITER.KO (R128): pull steps, the first `NK` with a key Block. -/
def execIterKO (nk : BitVec 8) (count : BitVec 16) (s : State) : Host.Outcome State Fault Refusal :=
  .next (iterate false true true nk.toNat count.toNat s)

/-- ITER.PKO (R129): duplex steps, the first `NK` with a key Block. -/
def execIterPKO (nk : BitVec 8) (count : BitVec 16) (s : State) : Host.Outcome State Fault Refusal :=
  .next (iterate true true true nk.toNat count.toNat s)

end Sys2Proof.Machine
end

