-- ==== Sys2Proof/Machine/Hash.lean ====
section
/-! DEFINITION. The hash-mode controller: HASH_INIT, HASH_BLOCK, HASH_FINAL (42_hash.md R180 to R183). -/

namespace Sys2Proof.Machine

/-- HASH_INIT (R180): the engine effect of RESET, phase HASH_ABSORBING, in every phase but FAULTED. -/
def execHashInit (s : State) : Host.Outcome State Fault Refusal :=
  .next (unlessFaulted (fun s => succeed [] [] (setPhase .hashAbsorbing (zeroEngine s))) s)

/-- HASH_BLOCK (R181): one push step of a 32-byte block. -/
def execHashBlock (s : State) : Host.Outcome State Fault Refusal :=
  .next (inPhase .hashAbsorbing (fun s =>
    unlessViol (hashViol s.din) (fun s => succeed [] [] (pushMessage s)) s) s)

/-- `1 <= n <= 32`, the legal truncation lengths (00_scope.md R6; R182). -/
def truncOk (n : Nat) : Bool := decide (1 ≤ n) && decide (n ≤ 32)

/-- The end of HASH_FINAL: one pull step, the first `n` digest bytes, phase HASH_FINALIZED (R182, R183). -/
def extractDigest (n : Nat) (s : State) : State :=
  let r := runOf true [(none, none)] s
  succeed [] ((r.2.flatMap (blockToBytes s.order)).take n) (setPhase .hashFinalized (setEng r.1 s))

/-- HASH_FINAL (R182): the truncation length, then the contract, then the final push and the pull. -/
def execHashFinal (n : BitVec 16) (s : State) : Host.Outcome State Fault Refusal :=
  .next (inPhase .hashAbsorbing (fun s =>
    if truncOk n.toNat then
      unlessViol (hashViol s.din) (fun s => extractDigest n.toNat (pushMessage s)) s
    else raiseError .invalidTruncation (truncInfo n.toNat) s) s)

end Sys2Proof.Machine
end

