-- ==== Sys2Proof/Machine/Dispatch.lean ====
section
/-! DEFINITION. The meaning of each command, one arm per constructor of Instr. -/

namespace Sys2Proof.Machine

def exec (i : Instr) (s : State) : Host.Outcome State Fault Refusal :=
  match i with
  | .reset => Sys2Proof.Machine.execReset s
  | .iter count => Sys2Proof.Machine.execIter count s
  | .iterP count => Sys2Proof.Machine.execIterP count s
  | .iterO count => Sys2Proof.Machine.execIterO count s
  | .iterPO count => Sys2Proof.Machine.execIterPO count s
  | .iterK nk count => Sys2Proof.Machine.execIterK nk count s
  | .iterPK nk count => Sys2Proof.Machine.execIterPK nk count s
  | .iterKO nk count => Sys2Proof.Machine.execIterKO nk count s
  | .iterPKO nk count => Sys2Proof.Machine.execIterPKO nk count s
  | .hashInit => Sys2Proof.Machine.execHashInit s
  | .hashBlock => Sys2Proof.Machine.execHashBlock s
  | .hashFinal n => Sys2Proof.Machine.execHashFinal n s
  | .cipherInit ivlen klen => Sys2Proof.Machine.execCipherInit ivlen klen s
  | .cipherKs count => Sys2Proof.Machine.execCipherKs count s

end Sys2Proof.Machine
end

