-- ==== Sys2Proof/Machine/Step.lean ====
section
/-! DEFINITION. One step: the block takes the next thing the host presents and runs it to completion (20_memory.md R61;
30_encoding.md R80). -/

namespace Sys2Proof.Machine

/-- One step. A command is one step, because it is atomic (00_scope.md R12; 40_engine.md R120). -/
def step (s : State) : Host.Outcome State Fault Refusal :=
  match s.inbox with
  | [] => .next (idle s)
  | .hardReset :: rest => .next (hardReset (setInbox rest s))
  | .readReg num :: rest => .next (readReg num (setInbox rest s))
  | .writeReg num v :: rest => .next (writeReg num v (setInbox rest s))
  | .request r :: rest =>
    match decode r.cw with
    | .ok i => exec i (setDin r.ports (setInbox rest s))
    | .error _ => .next (illegalCommand r.cw (setDin r.ports (setInbox rest s)))

/-- The command word `w` presented next, with no data at the ports (log entry 4). -/
def State.withFetchWord (s : State) (nbits w : Nat) : State :=
  { s with inbox := .request ⟨BitVec.ofNat 32 (w % 2 ^ nbits), noPorts⟩ :: s.inbox }

end Sys2Proof.Machine
end

