-- ==== Sys2Proof/Machine/HostSide.lean ====
section
/-! DEFINITION. What the host builds from commands: the pseudo-instructions (30_encoding.md R82, R87, R88) and the host procedures
HASH, MAC, VERIFY and CRYPT (42_hash.md R184 to R186; 43_cipher.md R214). No step of the block uses this file. -/

namespace Sys2Proof.Machine

/-- The name of a command; ITER's suffix lists the set flags in the order P, K, O (R84, R87). -/
def mnemonicOf : Instr → String
  | .reset => "RESET"
  | .iter _ => "ITER"
  | .iterP _ => "ITER.P"
  | .iterO _ => "ITER.O"
  | .iterPO _ => "ITER.PO"
  | .iterK _ _ => "ITER.K"
  | .iterPK _ _ => "ITER.PK"
  | .iterKO _ _ => "ITER.KO"
  | .iterPKO _ _ => "ITER.PKO"
  | .hashInit => "HASH_INIT"
  | .hashBlock => "HASH_BLOCK"
  | .hashFinal _ => "HASH_FINAL"
  | .cipherInit _ _ => "CIPHER_INIT"
  | .cipherKs _ => "CIPHER_KS"

/-- A command as the host presents it: the command's word and its data (R80). -/
abbrev Command := Instr × Ports

/-- The request that presents a command. -/
def present (c : Command) : HostEvent := .request ⟨encode c.1, c.2⟩

/-- The ITER variant with the given flags (R82, R84). -/
def iterInstr (P O K : Bool) (nk : BitVec 8) (count : BitVec 16) : Instr :=
  match K, P, O with
  | false, false, false => .iter count
  | false, true, false => .iterP count
  | false, false, true => .iterO count
  | false, true, true => .iterPO count
  | true, false, false => .iterK nk count
  | true, true, false => .iterPK nk count
  | true, false, true => .iterKO nk count
  | true, true, true => .iterPKO nk count

/-- `Iterate(count, p, z, k)` as one command: `P`, `O`, `K` say which arguments are present, `NK` is the number of
key Blocks (R88). R88 does not say what an operand too wide for its field gives. DESIGN CHOICE (log entry 13): the field keeps
its low bits, 16 of the count and 8 of the number of key Blocks, so that `BLANK 65536` is `ITER 0`. A source call that does not
fit one command is `splitCall` (R82). -/
def iterateCall (count : Nat) (p : Option (List Block)) (z : Bool) (k : Option (List Block)) : Command :=
  (iterInstr p.isSome z k.isSome (BitVec.ofNat 8 (k.getD []).length) (BitVec.ofNat 16 count), ⟨p, k, none, none⟩)

/-- `STEP.x`: `ITER.x 1`, with `NK = 1` when `K` is set (R88). -/
def stepCall (p : Option Block) (z : Bool) (k : Option Block) : Command :=
  iterateCall 1 (p.map fun x => [x]) z (k.map fun x => [x])

/-- `BLANK m` (R88); `m` over 65535 as in `iterateCall` (log entry 13). -/
def blankCall (m : Nat) : Command := iterateCall m none false none

/-- `PUSH {blocks}` (R88); over 65535 Blocks as in `iterateCall` (log entry 13). -/
def pushCall (blocks : List Block) : Command := iterateCall blocks.length (some blocks) false none

/-- `PULL m` (R88); `m` over 65535 as in `iterateCall` (log entry 13). -/
def pullCall (m : Nat) : Command := iterateCall m none true none

/-- `DUPLEX {blocks}` (R88); over 65535 Blocks as in `iterateCall` (log entry 13). -/
def duplexCall (blocks : List Block) : Command := iterateCall blocks.length (some blocks) true none

/-- How many steps the first command of a split call runs: 255 while more than 255 key Blocks are left, 65535 after
(R82; 40_engine.md R121). -/
def splitLen (k : Option (List Block)) : Nat := if 255 < (k.getD []).length then 255 else 65535

/-- The key list left after a command that took `m` Blocks of it; an exhausted list is absent. -/
def keyRest (m : Nat) (k : Option (List Block)) : Option (List Block) :=
  k.bind fun l => if l.length ≤ m then none else some (l.drop m)

/-- A source call of any `count`, "issued as several ITERATE commands whose counts add up to `count`, with the
lists cut to match" (R82). The first argument bounds the number of commands; `count` is enough. -/
def splitCall : Nat → Nat → Option (List Block) → Bool → Option (List Block) → List Command
  | 0, count, p, z, k => [iterateCall count p z k]
  | fuel + 1, count, p, z, k =>
    let m := splitLen k
    if count ≤ m then [iterateCall count p z k]
    else
      iterateCall m (p.map (List.take m)) z (k.map (List.take m)) ::
        splitCall fuel (count - m) (p.map (List.drop m)) z (keyRest m k)

/-- A HASH command with its 32 bytes. -/
def bytesCommand (i : Instr) (y : List Byte) : Command := (i, ⟨none, none, some y, none⟩)

/-- `HASH(msg, n)`, with `blocks = PAD(msg)`; `PAD` is the host's own (R186, R187; log entry 9). -/
def hashCommands (blocks : List (List Byte)) (n : BitVec 16) : List Command :=
  (.hashInit, noPorts) ::
    (blocks.dropLast.map (bytesCommand .hashBlock) ++
      [bytesCommand (.hashFinal n) (blocks.getLast?.getD [])])

/-- `MAC(key, msg, n) = HASH(key ++ msg, n)` for a padding function (R184, R186). -/
def macCommands (pad : List Byte → List (List Byte)) (key msg : List Byte) (n : BitVec 16) : List Command :=
  hashCommands (pad (key ++ msg)) n

/-- The comparison of `VERIFY`, byte for byte, on the tag the host received and the MAC it recomputed (R185). -/
def tagMatches (tag mac : List Byte) : Bool := decide (tag = mac)

/-- `CRYPT(key, iv, data)`: the commands, for `len` data bytes (R214). R214 issues one CIPHER_KS and does not say what data of more
than 65535 keystream Blocks, or a key or IV too long for its length field, gives. DESIGN CHOICE (log entry 14): each field keeps
its low bits, 16 of the Block count, 16 of the key length and 8 of the IV length. -/
def cryptCommands (key iv : List Byte) (len : Nat) : List Command :=
  [(.cipherInit (BitVec.ofNat 8 iv.length) (BitVec.ofNat 16 key.length), ⟨none, none, some key, some iv⟩),
    (.cipherKs (BitVec.ofNat 16 ((len + 31) / 32)), noPorts)]

/-- `data[i] ^ ks[i]`, byte `i` of the data with byte `i` of the keystream (R214); where the keystream is
shorter than the data the result is as short as the keystream (DESIGN CHOICE, log entry 14). -/
def xorData (data ks : List Byte) : List Byte := List.zipWith (· ^^^ ·) data ks

end Sys2Proof.Machine
end

