-- ==== Sys2Proof/Safety.lean ====
section
/-! DEFINITION. What a coherent state of the block is, and what a run of several steps is, in the terms the claims use. -/

namespace Sys2Proof.Safety

open Sys2Proof.Machine

/-- What the spec says holds of the status fields between commands: `FAULT = 1` exactly when `PHASE = FAULTED`
(10_state.md R27) and exactly when the frozen `ERRCODE` is 3 (R28; 60_exceptions.md R234); `ERRCODE` is never 6,
which only a response carries (R240); `ERRINFO` is what R231 says of the code; no data is left at the ports
(10_state.md R33). -/
abbrev Coherent (s : State) : Prop :=
  (s.fault = true ↔ s.phase = .faulted) ∧
  (s.fault = true ↔ s.errcode = .contractViolation) ∧
  s.errcode ≠ .deviceFaulted ∧
  (s.errcode = .ok → s.errinfo = 0) ∧
  (s.errcode = .invalidKeyLength → s.errinfo = 0 ∨ s.errinfo = 1) ∧
  (s.errcode = .invalidTruncation → s.phase = .hashAbsorbing ∧ (s.errinfo = 0 ∨ 32 < s.errinfo.toNat)) ∧
  (s.errcode = .contractViolation → 0 < s.errinfo.toNat ∧ s.errinfo.toNat < 16) ∧
  (s.errcode = .phaseError → s.errinfo = phaseInfo s.phase) ∧
  s.din = noPorts

/-- Nothing of the instance's straps differs: CONFIG and the configuration record are constant for its life
(10_state.md R29; 20_memory.md R54). -/
abbrev SameStraps (s t : State) : Prop := t.order = s.order ∧ t.nblank = s.nblank ∧ t.cfg = s.cfg

/-- The host runs `cs` one after the other from `s`, presenting them in order and nothing else. -/
def runCommands (cs : List Command) (s : State) : Host.Outcome State Fault Refusal :=
  Host.Core.run core cs.length (setInbox (cs.map present) s)

end Sys2Proof.Safety
end

