-- ==== Sys2Proof/Certificates/Slice0/Obligations.lean ====
section
/-! DEFINITION. The statements for the provers, with the notions they use, which are written from the spec's rules and not from
the model's operations where the two could differ. -/

namespace Sys2Proof.Claims

open Sys2Proof.Machine Sys2Proof.Safety

/-! ### The step as a relation (40_engine.md R112, R117; 10_state.md R25) -/

/-- Logical stage `j`: physical slot `(bstart + j) mod 32` (R25). -/
def logicalStage (e : Engine) (j : Nat) : Stage := e.b[(e.bstart.val + j) % 32]

/-- The logical history as the step reads it (R112). -/
def view (e : Engine) : History := Vector.ofFn fun j : Fin 32 => logicalStage e j.val

/-- The stage a step evicts, `B[31]` (R112). -/
def evicted (e : Engine) : Stage := logicalStage e 31

/-- One step from `e` to `e'` with push `p` and key `k` (R112, R117). -/
def StepRel (cfg : Cfg) (p k : Option Block) (e e' : Engine) : Prop :=
  e'.bstart.val = (e.bstart.val + 31) % 32 ∧
  e'.a = cfg.accStep e.a (view e) p k ∧
  e'.c = cfg.scratchStep e.a (view e) p k ∧
  ∀ j : Fin 32, logicalStage e' j.val = (cfg.bufStep e.a (view e) p k)[j]

/-- The output Block of a step from `e` that pulls (R112, R116). -/
def tapOf (cfg : Cfg) (e : Engine) : Block := cfg.tap e.a (evicted e)

/-- A run of steps through the engines `es`, step `t` with push `p t` and key `k t` (R111). -/
def RunRel (cfg : Cfg) (p k : Nat → Option Block) (count : Nat) (es : Nat → Engine) : Prop :=
  ∀ t : Nat, t < count → StepRel cfg (p t) (k t) (es t) (es (t + 1))

/-- The output Blocks of a run that pulls, in order (R111). -/
def tapsOf (cfg : Cfg) (es : Nat → Engine) (count : Nat) : List Block :=
  (List.range count).map fun t => tapOf cfg (es t)

/-- Every word zero and the cursor zero (10_state.md R31). -/
def AllZero (e : Engine) : Prop :=
  (∀ i : Fin 17, e.a[i] = 0#32) ∧ (∀ i : Fin 17, e.c[i] = 0#32) ∧
  (∀ s : Fin 32, ∀ i : Fin 8, e.b[s][i] = 0#32) ∧ e.bstart = 0

/-! ### What a command leaves -/

/-- `s` after a successful command: the engine, the success code, the response, the data gone from the ports (R33; log entry
5); nothing else (10_state.md R28). -/
def finished (s : State) (e : Engine) (outw : List Block) (outb : List Byte) : State :=
  { s with eng := e, errcode := .ok, errinfo := 0, din := noPorts, resp := some ⟨.ok, 0, outw, outb⟩ }

/-- `s` after a recoverable error: `ERRCODE`, `ERRINFO`, the response, the ports as above; nothing else (60_exceptions.md
R230). -/
def failed (s : State) (code : ErrCode) (info : BitVec 8) : State :=
  { s with errcode := code, errinfo := info, din := noPorts, resp := some ⟨code, info, [], []⟩ }

/-- `s` after a refusal: the response, the ports as above; nothing else (R240). -/
def refusedState (s : State) : State := { s with din := noPorts, resp := some ⟨.deviceFaulted, 0, [], []⟩ }

/-- What CONTRACT_VIOLATION(viol) leaves; of the engine nothing is said (R234). -/
def Violated (s : State) (viol : BitVec 8) (t : State) : Prop :=
  t.fault = true ∧ t.phase = .faulted ∧ t.errcode = .contractViolation ∧ t.errinfo = viol ∧
  t.resp = some ⟨.contractViolation, viol, [], []⟩ ∧ t.din = noPorts ∧ SameStraps s t ∧ t.inbox = s.inbox ∧
  t.rdata = s.rdata

/-- A data list is absent, unexpected, or of the wrong length (R234). -/
def ListWrong {α : Type} (wanted : Bool) (n : Nat) (l : Option (List α)) : Prop :=
  (wanted = true ∧ ∀ x, l = some x → x.length ≠ n) ∨ (wanted = false ∧ l ≠ none)

/-- The information byte of a contract violation: bit 0 push, bit 1 key, bit 2 `bytes1`, bit 3 `bytes2` (R231). -/
def IsViol (viol : BitVec 8) (push key b1 b2 : Prop) : Prop :=
  (viol.getLsbD 0 = true ↔ push) ∧ (viol.getLsbD 1 = true ↔ key) ∧ (viol.getLsbD 2 = true ↔ b1) ∧
  (viol.getLsbD 3 = true ↔ b2) ∧ viol.toNat < 16

/-- Element `t` of a data list. -/
def elemAt (l : Option (List Block)) (t : Nat) : Option Block := (l.getD [])[t]?

/-- ITERATE as one command, with its contract (40_engine.md R111). -/
def IterateCommand (i : Instr) (P O K : Bool) (nk count : Nat) : Prop :=
  ∀ s : State, s.fault = false → s.phase = .raw →
    (¬ListWrong P count s.din.push → ¬ListWrong K nk s.din.key →
      ∃ es : Nat → Engine, es 0 = s.eng ∧
        RunRel (cfgOf s.cfg) (fun t => if P then elemAt s.din.push t else none)
          (fun t => if K = true ∧ t < nk then elemAt s.din.key t else none) count es ∧
        exec i s = .next (finished s (es count) (if O then tapsOf (cfgOf s.cfg) es count else []) [])) ∧
    (∀ viol : BitVec 8, IsViol viol (ListWrong P count s.din.push) (ListWrong K nk s.din.key) False False →
      viol ≠ 0 → ∃ t, exec i s = .next t ∧ Violated s viol t)

/-! ### Legal words (30_encoding.md R81, R85, R86) -/

/-- Bits `hi:lo` of a word as a number, `n = hi - lo + 1` of them (00_scope.md R8). -/
def bitsAt (w : Word) (lo n : Nat) : Nat := w.toNat / 2 ^ lo % 2 ^ n

/-- The words that decode (R85). -/
def LegalWord (w : Word) : Prop :=
  (bitsAt w 28 4 = 1 ∧ bitsAt w 0 28 = 0) ∨
  (bitsAt w 28 4 = 2 ∧ bitsAt w 24 1 = 0 ∧ bitsAt w 27 1 = 0 ∧ bitsAt w 16 8 = 0) ∨
  (bitsAt w 28 4 = 2 ∧ bitsAt w 24 1 = 0 ∧ bitsAt w 27 1 = 1 ∧ 1 ≤ bitsAt w 16 8 ∧
    bitsAt w 16 8 ≤ bitsAt w 0 16) ∨
  (bitsAt w 28 4 = 3 ∧ bitsAt w 0 28 = 0) ∨
  (bitsAt w 28 4 = 4 ∧ bitsAt w 0 28 = 0) ∨
  (bitsAt w 28 4 = 5 ∧ bitsAt w 16 12 = 0) ∨
  (bitsAt w 28 4 = 6 ∧ bitsAt w 24 4 = 0) ∨
  (bitsAt w 28 4 = 7 ∧ bitsAt w 16 12 = 0)

/-! ### The numbers of the status fields, from the spec's tables -/

/-- The values of `PHASE` (10_state.md R26). -/
def phaseNumber : Phase → Nat
  | .raw => 0
  | .hashAbsorbing => 1
  | .hashFinalized => 2
  | .cipherReady => 3
  | .faulted => 7

/-- The values of `ERRCODE` and of a response's code (60_exceptions.md R231). -/
def codeNumber : ErrCode → Nat
  | .ok => 0
  | .invalidKeyLength => 1
  | .invalidTruncation => 2
  | .contractViolation => 3
  | .illegalCommand => 4
  | .phaseError => 5
  | .deviceFaulted => 6

/-- The values of `CONFIG.ORDER` (10_state.md R29). -/
def orderNumber : WordOrder → Nat
  | .le => 0
  | .be => 1

/-! ### Phases and errors (60_exceptions.md R237, R246) -/

/-- The phase in which a command that is not legal everywhere is legal; `none` for RESET, HASH_INIT, CIPHER_INIT
(R246). -/
def onlyIn : Instr → Option Phase
  | .reset => none
  | .iter _ => some .raw
  | .iterP _ => some .raw
  | .iterO _ => some .raw
  | .iterPO _ => some .raw
  | .iterK _ _ => some .raw
  | .iterPK _ _ => some .raw
  | .iterKO _ _ => some .raw
  | .iterPKO _ _ => some .raw
  | .hashInit => none
  | .hashBlock => some .hashAbsorbing
  | .hashFinal _ => some .hashAbsorbing
  | .cipherInit _ _ => none
  | .cipherKs _ => some .cipherReady

/-- The phase after a successful run (R246). -/
def phaseAfter : Instr → Phase
  | .reset => .raw
  | .iter _ => .raw
  | .iterP _ => .raw
  | .iterO _ => .raw
  | .iterPO _ => .raw
  | .iterK _ _ => .raw
  | .iterPK _ _ => .raw
  | .iterKO _ _ => .raw
  | .iterPKO _ _ => .raw
  | .hashInit => .hashAbsorbing
  | .hashBlock => .hashAbsorbing
  | .hashFinal _ => .hashFinalized
  | .cipherInit _ _ => .cipherReady
  | .cipherKs _ => .cipherReady

/-- The phase table allows the command (R246). -/
def Allowed (i : Instr) (p : Phase) : Prop := ∀ q, onlyIn i = some q → p = q

/-- A declared length out of range, with its error (R237 item 4, key before IV). -/
def RangeError (i : Instr) (code : ErrCode) (info : BitVec 8) : Prop :=
  (∃ n, i = .hashFinal n ∧ (n.toNat = 0 ∨ 32 < n.toNat) ∧ code = .invalidTruncation ∧
    info.toNat = min n.toNat 255) ∨
  (∃ ivlen klen, i = .cipherInit ivlen klen ∧ (klen.toNat < 32 ∨ 64 < klen.toNat) ∧ code = .invalidKeyLength ∧
    info = 0) ∨
  (∃ ivlen klen, i = .cipherInit ivlen klen ∧ ¬(klen.toNat < 32 ∨ 64 < klen.toNat) ∧
    (ivlen.toNat < 32 ∨ 64 < ivlen.toNat) ∧ code = .invalidKeyLength ∧ info = 1)

/-- The violation byte of a command on the data at its ports (R234, R237 item 5). -/
def ViolOf (i : Instr) (d : Ports) (viol : BitVec 8) : Prop :=
  match i with
  | .reset => viol = 0
  | .iter c => IsViol viol (ListWrong false c.toNat d.push) (ListWrong false 0 d.key) False False
  | .iterP c => IsViol viol (ListWrong true c.toNat d.push) (ListWrong false 0 d.key) False False
  | .iterO c => IsViol viol (ListWrong false c.toNat d.push) (ListWrong false 0 d.key) False False
  | .iterPO c => IsViol viol (ListWrong true c.toNat d.push) (ListWrong false 0 d.key) False False
  | .iterK nk c => IsViol viol (ListWrong false c.toNat d.push) (ListWrong true nk.toNat d.key) False False
  | .iterPK nk c => IsViol viol (ListWrong true c.toNat d.push) (ListWrong true nk.toNat d.key) False False
  | .iterKO nk c => IsViol viol (ListWrong false c.toNat d.push) (ListWrong true nk.toNat d.key) False False
  | .iterPKO nk c => IsViol viol (ListWrong true c.toNat d.push) (ListWrong true nk.toNat d.key) False False
  | .hashInit => viol = 0
  | .hashBlock => IsViol viol False False (ListWrong true 32 d.bytes1) False
  | .hashFinal _ => IsViol viol False False (ListWrong true 32 d.bytes1) False
  | .cipherInit ivlen klen =>
    IsViol viol False False (ListWrong true klen.toNat d.bytes1) (ListWrong true ivlen.toNat d.bytes2)
  | .cipherKs _ => viol = 0

/-- The code and information byte a decoded command answers with, the first check that applies first (R237). -/
def Answers (i : Instr) (s : State) (code : ErrCode) (info : BitVec 8) : Prop :=
  (s.fault = true ∧ code = .deviceFaulted ∧ info = 0) ∨
  (s.fault = false ∧ ¬Allowed i s.phase ∧ code = .phaseError ∧ info.toNat = phaseNumber s.phase) ∨
  (s.fault = false ∧ Allowed i s.phase ∧ RangeError i code info) ∨
  (s.fault = false ∧ Allowed i s.phase ∧ (∀ c n, ¬RangeError i c n) ∧ ViolOf i s.din info ∧ info ≠ 0 ∧
    code = .contractViolation) ∨
  (s.fault = false ∧ Allowed i s.phase ∧ (∀ c n, ¬RangeError i c n) ∧ ViolOf i s.din 0 ∧ code = .ok ∧ info = 0)

/-- The errors that change nothing else (R230, R231). -/
def Recoverable (code : ErrCode) : Prop :=
  code = .invalidKeyLength ∨ code = .invalidTruncation ∨ code = .illegalCommand ∨ code = .phaseError

/-! ### Views of the state that leave something out -/

/-- The scratch half replaced. -/
def withC (x : Acc) (s : State) : State := { s with eng := { s.eng with c := x } }

/-- Same state but for where in the history the cursor stands: the logical views agree (10_state.md R25). -/
def SameView (s s' : State) : Prop :=
  { s' with eng := s.eng } = s ∧ s'.eng.a = s.eng.a ∧ s'.eng.c = s.eng.c ∧ view s'.eng = view s.eng

/-- Same state but for the unspecified values of a fault: while `FAULT = 1` the engines may differ, and the counts
of free values drawn may differ (60_exceptions.md R234). -/
def SameButUnspecified (s s' : State) : Prop :=
  { s' with eng := s.eng, draws := s.draws } = s ∧ (s.fault = false → s'.eng = s.eng)

/-- The data of a request with only push and key lists. -/
def blocksIn (push key : Option (List Block)) : Ports := ⟨push, key, none, none⟩

/-- Two lists joined, absent if either is (40_engine.md R121). -/
def joinLists (l1 l2 : Option (List Block)) : Option (List Block) :=
  l1.bind fun a => l2.map fun b => a ++ b

/-- The output Blocks of the last response. -/
def outwOf (t : State) : List Block := ((t.resp.map Response.outw).getD [])

/-- The output bytes of the last response. -/
def outbOf (t : State) : List Byte := ((t.resp.map Response.outb).getD [])

/-- Two ITERATE commands one after the other against one of the joint count (40_engine.md R121). -/
def Composes (P O : Bool) (K1 K2 : Bool) (nk1 nk2 : BitVec 8) (m n : BitVec 16) (s : State)
    (p1 p2 k1 k2 : Option (List Block)) (nk : BitVec 8) (k : Option (List Block)) : Prop :=
  ∃ t1 t2 t,
    exec (iterInstr P O K1 nk1 m) (setDin (blocksIn p1 k1) s) = .next t1 ∧
    exec (iterInstr P O K2 nk2 n) (setDin (blocksIn p2 k2) t1) = .next t2 ∧
    exec (iterInstr P O (K1 || K2) nk (m + n)) (setDin (blocksIn (joinLists p1 p2) k) s) = .next t ∧
    { t with resp := none } = { t2 with resp := none } ∧ outwOf t = outwOf t1 ++ outwOf t2 ∧ t.errcode = .ok

/-- Nothing is wrong with a data list. -/
abbrev Fits {α : Type} (wanted : Bool) (n : Nat) (l : Option (List α)) : Prop := ¬ListWrong wanted n l

end Sys2Proof.Claims

open Sys2Proof Sys2Proof.Machine Sys2Proof.Safety Sys2Proof.Claims

/-! ### Encoding -/

/-- 30_encoding.md section 3: decoding the word of a well-formed command gives the command back. -/
def Obligations.DecodeOfEncodeIsTheCommand : Prop := ∀ i : Instr, i.wf = true → decode (encode i) = .ok i

/-- 30_encoding.md R85: a word that decodes is the encoding of the one well-formed command it decodes to, so no bit of a
legal word is dropped. -/
def Obligations.EncodeOfDecodeIsTheWord : Prop :=
  ∀ (w : Word) (i : Instr), decode w = .ok i → i.wf = true ∧ encode i = w

/-- R85, R86: the words that decode are exactly the legal words; the others are refused by name. -/
def Obligations.DecodeAcceptsExactlyTheLegalWords : Prop :=
  ∀ w : Word, (∃ i, decode w = .ok i) ↔ LegalWord w

/-- R84: a few words written out from the table of the spec, legal and illegal. -/
def Obligations.SampleWordsDecodeAsTheSpecSays : Prop :=
  decode 0x10000000 = .ok .reset ∧ decode 0x20000020 = .ok (.iter 32) ∧ decode 0x26000003 = .ok (.iterPO 3) ∧
  decode 0x28020003 = .ok (.iterK 2 3) ∧ decode 0x2EFF00FF = .ok (.iterPKO 255 255) ∧
  decode 0x50000020 = .ok (.hashFinal 32) ∧ decode 0x60300020 = .ok (.cipherInit 48 32) ∧
  decode 0x70000002 = .ok (.cipherKs 2) ∧ decode 0x00000000 = .error .reservedOpcode ∧
  decode 0x21000001 = .error .reservedBits ∧ decode 0x28020001 = .error .badKeyCount

/-- R235, R86: a word that is not legal raises ILLEGAL_COMMAND with `cw[31:24]` and changes nothing but `ERRCODE` and
`ERRINFO`; the all-zero and the all-ones word are such words. -/
def Obligations.IllegalWordsRaiseIllegalCommand : Prop :=
  ¬LegalWord 0x00000000 ∧ ¬LegalWord 0xFFFFFFFF ∧
  ∀ (s : State) (r : Request) (rest : List HostEvent),
    s.inbox = .request r :: rest → s.fault = false → ¬LegalWord r.cw →
      ∃ info : BitVec 8, info.toNat = r.cw.toNat / 2 ^ 24 ∧
        step s = .next (failed { s with inbox := rest } .illegalCommand info)

/-! ### The step of the machine -/

/-- 30_encoding.md R80, 20_memory.md R61: the next request is taken from the host, its data stands at the ports, and the
machine runs exactly the command its word decodes to. -/
def Obligations.StepRunsTheDecodedCommand : Prop :=
  ∀ (s : State) (r : Request) (rest : List HostEvent) (i : Instr),
    s.inbox = .request r :: rest → decode r.cw = .ok i →
      step s = exec i { s with inbox := rest, din := r.ports }

/-- Every step from every state answers a next state: no error of the block stops it (60_exceptions.md R230, R238). With
nothing presented the state stays as it is (the model's choice, log entry 4). -/
def Obligations.EveryStepAnswersANextState : Prop :=
  (∀ s : State, ∃ t, step s = .next t) ∧ ∀ s : State, s.inbox = [] → step s = .next s

/-! ### Reset -/

/-- 10_state.md R31: what hard reset and the RESET command leave, piece by piece. -/
def Obligations.HardResetAndResetLeaveTheStatedValues : Prop :=
  (AllZero State.reset.eng ∧ State.reset.phase = .raw ∧ State.reset.fault = false ∧ State.reset.errcode = .ok ∧
    State.reset.errinfo = 0) ∧
  (∀ (s : State) (rest : List HostEvent), s.inbox = .hardReset :: rest →
    ∃ t, step s = .next t ∧ AllZero t.eng ∧ t.phase = .raw ∧ t.fault = false ∧ t.errcode = .ok ∧ t.errinfo = 0 ∧
      configReg t = configReg s) ∧
  (∀ s : State, s.fault = false →
    ∃ t, exec .reset s = .next t ∧ AllZero t.eng ∧ t.phase = .raw ∧ t.fault = s.fault ∧ t.errcode = .ok ∧
      t.errinfo = 0 ∧ configReg t = configReg s) ∧
  (∀ s : State, s.fault = true → exec .reset s = .next (refusedState s))

/-- 40_engine.md R110: RESET zeroes the engine, gives up the controller, succeeds in every phase but FAULTED and is refused
there; a second RESET changes nothing; its word is 0x10000000, and with any of bits 27:0 set the word raises
ILLEGAL_COMMAND. -/
def Obligations.ResetZeroesTheEngine : Prop :=
  (∀ s : State, s.fault = false →
    ∃ e, AllZero e ∧ exec .reset s = .next (finished { s with phase := .raw } e [] [])) ∧
  (∀ s : State, s.fault = true → exec .reset s = .next (refusedState s)) ∧
  (∀ s t : State, s.fault = false → exec .reset s = .next t → exec .reset t = .next t) ∧
  decode 0x10000000 = .ok .reset ∧
  (∀ (s : State) (r : Request) (rest : List HostEvent), s.inbox = .request r :: rest → s.fault = false →
    bitsAt r.cw 28 4 = 1 → bitsAt r.cw 0 28 ≠ 0 →
    step s = .next (failed { s with inbox := rest } .illegalCommand (r.cw.extractLsb' 24 8)))

/-- 42_hash.md R180: HASH_INIT has the engine effect of RESET and enters HASH_ABSORBING from every non-faulted phase; FAULTED
refuses it; its word is 0x30000000, and with any of bits 27:0 set the word raises ILLEGAL_COMMAND. -/
def Obligations.HashInitZeroesTheEngineAndAbsorbs : Prop :=
  (∀ s : State, s.fault = false →
    ∃ e t, AllZero e ∧ t = finished { s with phase := .hashAbsorbing } e [] [] ∧ exec .hashInit s = .next t ∧
      statusReg t = 0x00000001) ∧
  (∀ s : State, s.fault = true → exec .hashInit s = .next (refusedState s)) ∧
  decode 0x30000000 = .ok .hashInit ∧
  (∀ (s : State) (r : Request) (rest : List HostEvent), s.inbox = .request r :: rest → s.fault = false →
    bitsAt r.cw 28 4 = 3 → bitsAt r.cw 0 28 ≠ 0 →
    step s = .next (failed { s with inbox := rest } .illegalCommand (r.cw.extractLsb' 24 8)))

/-! ### ITERATE and the single step -/

/-- 40_engine.md R111, R112: each of the eight ITERATE variants, in phase RAW with data lists of the declared lengths,
runs exactly `COUNT` steps, step `t` with `push[t]` and, for `t < NK`, `key[t]`, answers the output Blocks, and changes
nothing else; with a wrong list it raises CONTRACT_VIOLATION with the bits of the wrong lists. -/
def Obligations.IterateRunsItsSteps : Prop :=
  ∀ (nk : BitVec 8) (count : BitVec 16),
    IterateCommand (.iter count) false false false 0 count.toNat ∧
    IterateCommand (.iterP count) true false false 0 count.toNat ∧
    IterateCommand (.iterO count) false true false 0 count.toNat ∧
    IterateCommand (.iterPO count) true true false 0 count.toNat ∧
    (1 ≤ nk.toNat → nk.toNat ≤ count.toNat →
      IterateCommand (.iterK nk count) false false true nk.toNat count.toNat ∧
      IterateCommand (.iterPK nk count) true false true nk.toNat count.toNat ∧
      IterateCommand (.iterKO nk count) false true true nk.toNat count.toNat ∧
      IterateCommand (.iterPKO nk count) true true true nk.toNat count.toNat)

/-- 40_engine.md R121: ITERATE commands compose: without keys; with keys that cover the first command; and with keys in
the first command only. -/
def Obligations.IterateCommandsCompose : Prop :=
  ∀ (P O : Bool) (m n : BitVec 16) (s : State) (p1 p2 : Option (List Block)),
    m.toNat + n.toNat < 65536 → s.fault = false → s.phase = .raw →
    Fits P m.toNat p1 → Fits P n.toNat p2 →
      Composes P O false false 0 0 m n s p1 p2 none none 0 none ∧
      (∀ (nk1 nk2 : BitVec 8) (k1 k2 : List Block), nk1.toNat = m.toNat → nk1.toNat + nk2.toNat < 256 →
        1 ≤ nk1.toNat → 1 ≤ nk2.toNat → nk2.toNat ≤ n.toNat → k1.length = nk1.toNat → k2.length = nk2.toNat →
        Composes P O true true nk1 nk2 m n s p1 p2 (some k1) (some k2) (nk1 + nk2) (some (k1 ++ k2))) ∧
      (∀ (nk1 : BitVec 8) (k1 : List Block), 1 ≤ nk1.toNat → nk1.toNat ≤ m.toNat → k1.length = nk1.toNat →
        Composes P O true false nk1 0 m n s p1 p2 (some k1) none nk1 (some k1))

/-- 40_engine.md R117: every step ends with `bstart <- (bstart + 31) mod 32`, whatever it takes and gives, and 32 steps in a
row return the cursor to its value; so a successful ITERATE of `COUNT` steps moves it by `31 * COUNT` mod 32, from 0 to 31,
30, and so on. -/
def Obligations.TheCursorMovesByTheStride : Prop :=
  (∀ (cfg : Cfg) (i : StepInput) (pull : Bool) (e : Engine),
    (engineStep cfg i pull e).1.bstart.val = (e.bstart.val + 31) % 32) ∧
  (∀ (cfg : Cfg) (pull : Bool) (l : List StepInput) (e : Engine), l.length = 32 →
    (engineRun cfg pull l e).1.bstart = e.bstart) ∧
  (∀ (P O K : Bool) (nk : BitVec 8) (count : BitVec 16) (s : State), s.fault = false → s.phase = .raw →
    Fits P count.toNat s.din.push → Fits K nk.toNat s.din.key →
    ∃ t, exec (iterInstr P O K nk count) s = .next t ∧
      t.eng.bstart.val = (s.eng.bstart.val + 31 * count.toNat) % 32 ∧
      (s.eng.bstart = 0 → t.eng.bstart.val = (32 - count.toNat % 32) % 32))

/-- 40_engine.md R116: the output of a step is taken before its update from the accumulator and the evicted stage, so a
Block pushed in the same step does not reach it; pulling does not change what a step does to the state; the first Block
after RESET depends on zeros only; under `cfg_ref` (log entry 3) the output is accumulator words 9 to 16. -/
def Obligations.TheOutputTapIsBeforeTheUpdate : Prop :=
  (∀ (P K : Bool) (nk : BitVec 8) (count : BitVec 16) (s : State), s.fault = false → s.phase = .raw →
    Fits P count.toNat s.din.push → Fits K nk.toNat s.din.key →
    ∃ t t', exec (iterInstr P true K nk count) s = .next t ∧ exec (iterInstr P false K nk count) s = .next t' ∧
      t.eng = t'.eng ∧
      (0 < count.toNat → (outwOf t)[0]? = some (tapOf (cfgOf s.cfg) s.eng)) ∧
      (0 < count.toNat → AllZero s.eng → (outwOf t)[0]? = some ((cfgOf s.cfg).tap zeroAcc zeroBlock))) ∧
  (∀ (A : Acc) (ev : Stage) (i : Fin 8), (cfgRef.tap A ev)[i] = A[i.val + 9])

/-- 41_reference_diffusion.md R161: one step of `cfg_ref` without a key, put together: the accumulator by γ, π, θ, σ, the
scratch half, the two physical slots written, every other slot as it was, the cursor, the output. The commands are ITER,
ITER.P, ITER.O and ITER.PO with `COUNT = 1`. The formulas are the reference value, the spec's general knowledge (log entry
3). -/
def Obligations.ReferenceStepWritesTwoSlots : Prop :=
  ∀ (s : State) (p : Option Block) (pull : Bool),
    s.fault = false → s.phase = .raw → s.cfg = .ref → s.din.push = p.map (fun x => [x]) → s.din.key = none →
    let A : Nat → Word := fun i => s.eng.a[i % 17]
    let H : Nat → Nat → Word := fun j i => (logicalStage s.eng j)[i % 8]
    let L : Nat → Word := fun i => match p with | some x => x[i % 8] | none => H 4 i
    let Q : Nat → Word := fun i => match p with | some x => x[i % 8] | none => A (i % 8 + 1)
    let G : Nat → Word := fun i => A i ^^^ (A ((i + 1) % 17) ||| ~~~A ((i + 2) % 17))
    let C : Nat → Word := fun i => (G (7 * i % 17)).rotateLeft (i * (i + 1) / 2 % 32)
    let T : Nat → Word := fun i => C i ^^^ C ((i + 1) % 17) ^^^ C ((i + 4) % 17)
    let s0 := (s.eng.bstart.val + 31) % 32
    let s25 := (s.eng.bstart.val + 24) % 32
    ∃ t, exec (iterInstr p.isSome pull false 0 1) s = .next t ∧
      t.eng.a[0] = T 0 ^^^ 1#32 ∧
      (∀ i : Fin 8, t.eng.a[i.val + 1] = T (i.val + 1) ^^^ L i.val) ∧
      (∀ i : Fin 8, t.eng.a[i.val + 9] = T (i.val + 9) ^^^ H 16 i.val) ∧
      (∀ i : Fin 17, t.eng.c[i] = C i.val) ∧
      (∀ (sl : Fin 32) (i : Fin 8), sl.val = s0 → t.eng.b[sl][i] = H 31 i.val ^^^ Q i.val) ∧
      (∀ (sl : Fin 32) (i : Fin 8), sl.val = s25 → t.eng.b[sl][i] = H 24 i.val ^^^ H 31 ((i.val + 2) % 8)) ∧
      (∀ sl : Fin 32, sl.val ≠ s0 → sl.val ≠ s25 → t.eng.b[sl] = s.eng.b[sl]) ∧
      t.eng.bstart.val = s0 ∧ s0 ≠ s25 ∧
      outwOf t = if pull then [Vector.ofFn fun i : Fin 8 => A (i.val + 9)] else []

/-- 40_engine.md R113 for `cfg_ref`: for a fixed accumulator and history the next accumulator and the next history are
affine over GF(2) in the bits of the push Block. The formulas are the reference value, the spec's general knowledge (log
entry 3). -/
def Obligations.ReferencePushIsAffine : Prop :=
  ∀ (A : Acc) (H : History) (p q r : Block),
    (∀ i : Fin 17,
      (cfgRef.accStep A H (some (xorBlock p (xorBlock q r))) none)[i] =
        (cfgRef.accStep A H (some p) none)[i] ^^^ (cfgRef.accStep A H (some q) none)[i] ^^^
          (cfgRef.accStep A H (some r) none)[i]) ∧
    (∀ (j : Fin 32) (i : Fin 8),
      (cfgRef.bufStep A H (some (xorBlock p (xorBlock q r))) none)[j][i] =
        (cfgRef.bufStep A H (some p) none)[j][i] ^^^ (cfgRef.bufStep A H (some q) none)[j][i] ^^^
          (cfgRef.bufStep A H (some r) none)[j][i])

/-- 41_reference_diffusion.md section 5, for `cfg_ref`: γ and θ act on each bit position independently; λ and σ act lane by
lane but for the two-lane rotation in the update of stage 25. The formulas are the reference value (log entry 3). -/
def Obligations.ReferencePassesAreLaneWise : Prop :=
  (∀ (A A' : Acc) (n : Nat), (∀ i : Fin 17, A[i].getLsbD n = A'[i].getLsbD n) →
    ∀ i : Fin 17, (gammaPass A)[i].getLsbD n = (gammaPass A')[i].getLsbD n ∧
      (thetaPass A)[i].getLsbD n = (thetaPass A')[i].getLsbD n) ∧
  (∀ (A A' : Acc) (H H' : History) (p p' : Block) (l : Fin 8), p[l] = p'[l] →
    (∀ j : Fin 32, H[j][l] = H'[j][l]) →
    ∀ j : Fin 32, j ≠ 25 → (lambdaPass A H (some p))[j][l] = (lambdaPass A' H' (some p'))[j][l]) ∧
  (∀ (A A' : Acc) (H H' : History) (p : Option Block) (l : Fin 8), H[24][l] = H'[24][l] →
    H[31][l + 2] = H'[31][l + 2] → (lambdaPass A H p)[25][l] = (lambdaPass A' H' p)[25][l]) ∧
  (∀ (T T' : Acc) (H H' : History) (p p' : Block) (l : Fin 8), p[l] = p'[l] → H[16][l] = H'[16][l] →
    T[l.val + 1] = T'[l.val + 1] → T[l.val + 9] = T'[l.val + 9] →
    (sigmaPass T H (some p))[l.val + 1] = (sigmaPass T' H' (some p'))[l.val + 1] ∧
    (sigmaPass T H (some p))[l.val + 9] = (sigmaPass T' H' (some p'))[l.val + 9])

/-! ### The history buffer and byte order -/

/-- 20_memory.md R52: word addresses are `8*s + i`; a word access reads or writes that word; a Stage access exists only at
a multiple of 8; nothing outside 0 to 255 exists; a read after a write gives the value written and every other word is as
it was. -/
def Obligations.HistoryAccessesAreWordAddressed : Prop :=
  ∀ (b : History) (s : Fin 32) (i : Fin 8),
    memReadWord b (wordAddr s.val i.val) = some b[s][i] ∧
    memReadStage b (wordAddr s.val 0) = some b[s] ∧
    (i ≠ 0 → ∀ S : Stage, memReadStage b (wordAddr s.val i.val) = none ∧
      memWriteStage b (wordAddr s.val i.val) S = none) ∧
    (∀ addr : Nat, 256 ≤ addr → ∀ (v : Word) (S : Stage), memReadWord b addr = none ∧ memReadStage b addr = none ∧
      memWriteWord b addr v = none ∧ memWriteStage b addr S = none) ∧
    (∀ v : Word, ∃ b', memWriteWord b (wordAddr s.val i.val) v = some b' ∧
      ∀ addr : Nat, memReadWord b' addr =
        if addr = wordAddr s.val i.val then some v else memReadWord b addr) ∧
    (∀ S : Stage, ∃ b', memWriteStage b (wordAddr s.val 0) S = some b' ∧
      ∀ (s' : Fin 32) (i' : Fin 8), memReadWord b' (wordAddr s'.val i'.val) =
        if s' = s then some S[i'] else memReadWord b (wordAddr s'.val i'.val))

/-- 20_memory.md R51: logical stage `j` is physical slot `(bstart + j) mod 32`; with `bstart = 20`, `B[16]` is slot 4; a
step takes the cursor from 0 to 31, and 32 steps bring it back to where it was. -/
def Obligations.AddressingIsCursorRelative : Prop :=
  (∀ (e : Engine) (j : Fin 32), e.logical[j] = e.b[(e.bstart.val + j.val) % 32]) ∧
  (∀ e : Engine, e.bstart = 20 → e.logical[16] = e.b[4]) ∧
  (∀ (cfg : Cfg) (i : StepInput) (pull : Bool) (e : Engine), e.bstart = 0 → (engineStep cfg i pull e).1.bstart = 31) ∧
  (∀ (cfg : Cfg) (pull : Bool) (l : List StepInput) (e : Engine), l.length = 32 →
    (engineRun cfg pull l e).1.bstart = e.bstart)

/-- 20_memory.md R55: the formulas of `BytesToBlock` under both byte orders, and `BlockToBytes` as its inverse; byte
`4i+k` always belongs to word `i`; the example of the rule. -/
def Obligations.ByteOrderIsWithinAWord : Prop :=
  (∀ (y : List Byte) (i : Fin 8), y.length = 32 →
    let b : Nat → Word := fun k => (y.getD (4 * i.val + k) 0).setWidth 32
    (bytesToBlock .le y)[i] = (b 0 ||| b 1 <<< 8 ||| b 2 <<< 16 ||| b 3 <<< 24) ∧
    (bytesToBlock .be y)[i] = (b 0 <<< 24 ||| b 1 <<< 16 ||| b 2 <<< 8 ||| b 3)) ∧
  (∀ (o : WordOrder) (w : Block), (blockToBytes o w).length = 32 ∧ bytesToBlock o (blockToBytes o w) = w) ∧
  (∀ (o : WordOrder) (y : List Byte), y.length = 32 → blockToBytes o (bytesToBlock o y) = y) ∧
  (∀ (o : WordOrder) (y y' : List Byte) (i : Fin 8), y.length = 32 → y'.length = 32 →
    (∀ k : Fin 4, y.getD (4 * i.val + k.val) 0 = y'.getD (4 * i.val + k.val) 0) →
    (bytesToBlock o y)[i] = (bytesToBlock o y')[i]) ∧
  wordOfBytes .le 0x01 0x02 0x03 0x04 = 0x04030201 ∧ wordOfBytes .be 0x01 0x02 0x03 0x04 = 0x01020304

/-! ### The hash controller -/

/-- 42_hash.md section 1 (HASH_BLOCK): in HASH_ABSORBING, 32 bytes are one push step of their Block and nothing else
changes; the effect on the engine equals `ITER.P 1` with that Block in phase RAW. -/
def Obligations.HashBlockPushesItsBlock : Prop :=
  ∀ (s : State) (y : List Byte), s.fault = false → s.phase = .hashAbsorbing → s.din.bytes1 = some y →
    y.length = 32 →
    ∃ e, StepRel (cfgOf s.cfg) (some (bytesToBlock s.order y)) none s.eng e ∧
      exec .hashBlock s = .next (finished s e [] []) ∧
      ∃ t, exec (.iterP 1) { s with phase := .raw, din := blocksIn (some [bytesToBlock s.order y]) none } =
        .next t ∧ t.eng = e

/-- 42_hash.md section 1 (HASH_FINAL): with 1 to 32 digest bytes asked for, the padded block is pushed, one Block is
pulled, its first `n` bytes are the answer, the phase is HASH_FINALIZED, and nothing else changes. -/
def Obligations.HashFinalPushesThenPulls : Prop :=
  ∀ (s : State) (n : BitVec 16) (y : List Byte), s.fault = false → s.phase = .hashAbsorbing →
    1 ≤ n.toNat → n.toNat ≤ 32 → s.din.bytes1 = some y → y.length = 32 →
    ∃ e1 e2, StepRel (cfgOf s.cfg) (some (bytesToBlock s.order y)) none s.eng e1 ∧
      StepRel (cfgOf s.cfg) none none e1 e2 ∧
      exec (.hashFinal n) s = .next (finished { s with phase := .hashFinalized } e2 []
        ((blockToBytes s.order (tapOf (cfgOf s.cfg) e1)).take n.toNat))

/-- 42_hash.md R183: the digest of `n` bytes is the first `n` bytes of the 32-byte digest; for `n = 5` it is the four
bytes of word 0 and one of word 1, in the instance's byte order; 0 and more than 32 are errors; what is not delivered is
not kept (the states after differ in the response only). -/
def Obligations.TruncationGivesAPrefix : Prop :=
  ∀ s : State, s.fault = false → s.phase = .hashAbsorbing →
    (∀ y : List Byte, s.din.bytes1 = some y → y.length = 32 →
      ∃ (t32 : State) (z : Block), exec (.hashFinal 32) s = .next t32 ∧ outbOf t32 = blockToBytes s.order z ∧
        (∀ n : BitVec 16, 1 ≤ n.toNat → n.toNat ≤ 32 →
          ∃ t, exec (.hashFinal n) s = .next t ∧ outbOf t = (outbOf t32).take n.toNat ∧
            (outbOf t).length = n.toNat ∧ { t with resp := none } = { t32 with resp := none }) ∧
        (∃ t5, exec (.hashFinal 5) s = .next t5 ∧ outbOf t5 =
          match s.order with
          | .le => [z[0].extractLsb' 0 8, z[0].extractLsb' 8 8, z[0].extractLsb' 16 8, z[0].extractLsb' 24 8,
              z[1].extractLsb' 0 8]
          | .be => [z[0].extractLsb' 24 8, z[0].extractLsb' 16 8, z[0].extractLsb' 8 8, z[0].extractLsb' 0 8,
              z[1].extractLsb' 24 8])) ∧
    (∀ n : BitVec 16, n.toNat = 0 ∨ 32 < n.toNat →
      ∃ info, exec (.hashFinal n) s = .next (failed s .invalidTruncation info))

/-- 60_exceptions.md R233: HASH_FINAL with `n = 0` or `n > 32` raises INVALID_TRUNCATION with `min(n, 255)` before the
final push, whatever data is at the ports; state and phase stay, and the HASH_FINAL that follows with a legal `n` and the
same block gives what it would have given at once. -/
def Obligations.InvalidTruncationChangesNothing : Prop :=
  ∀ (s : State) (n : BitVec 16), s.fault = false → s.phase = .hashAbsorbing → n.toNat = 0 ∨ 32 < n.toNat →
    ∃ (info : BitVec 8) (t : State), info.toNat = min n.toNat 255 ∧ t = failed s .invalidTruncation info ∧
      exec (.hashFinal n) s = .next t ∧
      ∀ m : BitVec 16, exec (.hashFinal m) (setDin s.din t) = exec (.hashFinal m) s

/-- 42_hash.md section 2: the host's HASH procedure on the padded blocks, run from any non-faulted state, answers the
first `n` bytes of the Block tapped after all blocks have been pushed, in order, into the zero engine. -/
def Obligations.HashProcedureDigestsItsBlocks : Prop :=
  ∀ (s : State) (blocks : List (List Byte)) (n : BitVec 16), s.fault = false → blocks ≠ [] →
    (∀ y ∈ blocks, y.length = 32) → 1 ≤ n.toNat → n.toNat ≤ 32 →
    ∃ (es : Nat → Engine) (t : State), AllZero (es 0) ∧
      RunRel (cfgOf s.cfg) (fun t => (blocks[t]?).map (bytesToBlock s.order)) (fun _ => none) blocks.length es ∧
      runCommands (hashCommands blocks n) s = .next t ∧ t.phase = .hashFinalized ∧ t.errcode = .ok ∧
      SameStraps s t ∧
      outbOf t = (blockToBytes s.order (tapOf (cfgOf s.cfg) (es blocks.length))).take n.toNat

/-! ### The cipher controller -/

/-- 43_cipher.md R211: a key or IV of 32 to 64 bytes becomes one Block if it has 32 bytes and two otherwise, zero-padded
at the end; a key longer than 32 and shorter than 64 bytes and the same key with a zero byte after it give the same
Blocks. -/
def Obligations.KeyBlocksZeroPads : Prop :=
  ∀ (o : WordOrder) (y : List Byte), 32 ≤ y.length → y.length ≤ 64 →
    (keyBlocks o y).length = (if y.length = 32 then 1 else 2) ∧
    (∀ (t : Nat) (w : Block), (keyBlocks o y)[t]? = some w →
      ∀ (k : Fin 32), (blockToBytes o w).getD k.val 0 = y.getD (32 * t + k.val) 0) ∧
    (32 < y.length → y.length < 64 → keyBlocks o (y ++ [0]) = keyBlocks o y)

/-- 43_cipher.md section 1 (CIPHER_INIT): with key and IV of legal, declared lengths, the engine is zeroed, absorbs the
key Blocks and then the IV Blocks by the key path, runs `N_CIPHER_BLANK` blank steps, and the phase is CIPHER_READY. -/
def Obligations.CipherInitAbsorbsKeyThenIV : Prop :=
  ∀ (s : State) (ivlen : BitVec 8) (klen : BitVec 16) (key iv : List Byte), s.fault = false →
    32 ≤ klen.toNat → klen.toNat ≤ 64 → 32 ≤ ivlen.toNat → ivlen.toNat ≤ 64 →
    s.din.bytes1 = some key → key.length = klen.toNat → s.din.bytes2 = some iv → iv.length = ivlen.toNat →
    ∃ es : Nat → Engine, AllZero (es 0) ∧
      RunRel (cfgOf s.cfg) (fun _ => none) (fun t => (keyBlocks s.order key ++ keyBlocks s.order iv)[t]?)
        ((keyBlocks s.order key).length + (keyBlocks s.order iv).length + s.nblank.toNat) es ∧
      exec (.cipherInit ivlen klen) s = .next (finished { s with phase := .cipherReady }
        (es ((keyBlocks s.order key).length + (keyBlocks s.order iv).length + s.nblank.toNat)) [] [])

/-- 43_cipher.md section 1: in engine commands the effect of CIPHER_INIT on the engine is RESET; ITER.K over the key
Blocks; ITER.K over the IV Blocks; ITER `N_CIPHER_BLANK`. -/
def Obligations.CipherInitIsItsEngineCommands : Prop :=
  ∀ (s : State) (ivlen : BitVec 8) (klen : BitVec 16) (key iv : List Byte), s.fault = false →
    32 ≤ klen.toNat → klen.toNat ≤ 64 → 32 ≤ ivlen.toNat → ivlen.toNat ≤ 64 →
    key.length = klen.toNat → iv.length = ivlen.toNat →
    ∃ t t', exec (.cipherInit ivlen klen) (setDin ⟨none, none, some key, some iv⟩ s) = .next t ∧
      runCommands
        [(.reset, noPorts),
          (.iterK (BitVec.ofNat 8 (keyBlocks s.order key).length) (BitVec.ofNat 16 (keyBlocks s.order key).length),
            blocksIn none (some (keyBlocks s.order key))),
          (.iterK (BitVec.ofNat 8 (keyBlocks s.order iv).length) (BitVec.ofNat 16 (keyBlocks s.order iv).length),
            blocksIn none (some (keyBlocks s.order iv))),
          (.iter (s.nblank.setWidth 16), noPorts)] s = .next t' ∧
      t'.eng = t.eng ∧ t'.errcode = .ok ∧ t.errcode = .ok

/-- 60_exceptions.md R232: CIPHER_INIT raises INVALID_KEY_LENGTH(0) when the key length is not 32 to 64, and
INVALID_KEY_LENGTH(1) when the key length is and the IV length is not, whatever the phase and the data; nothing else
changes, the phase included. -/
def Obligations.InvalidKeyLengthChangesNothing : Prop :=
  ∀ (s : State) (ivlen : BitVec 8) (klen : BitVec 16), s.fault = false →
    (klen.toNat < 32 ∨ 64 < klen.toNat →
      exec (.cipherInit ivlen klen) s = .next (failed s .invalidKeyLength 0)) ∧
    (32 ≤ klen.toNat → klen.toNat ≤ 64 → ivlen.toNat < 32 ∨ 64 < ivlen.toNat →
      exec (.cipherInit ivlen klen) s = .next (failed s .invalidKeyLength 1))

/-- 43_cipher.md section 1 (CIPHER_KS): in CIPHER_READY, `COUNT` pull steps, the keystream is the bytes of their output
Blocks in order, and nothing else changes; engine and Blocks are those of `ITER.O COUNT` in phase RAW. -/
def Obligations.CipherKsPullsKeystream : Prop :=
  ∀ (s : State) (count : BitVec 16), s.fault = false → s.phase = .cipherReady →
    ∃ es : Nat → Engine, es 0 = s.eng ∧
      RunRel (cfgOf s.cfg) (fun _ => none) (fun _ => none) count.toNat es ∧
      exec (.cipherKs count) s = .next (finished s (es count.toNat) []
        ((tapsOf (cfgOf s.cfg) es count.toNat).flatMap (blockToBytes s.order))) ∧
      ∃ t, exec (.iterO count) { s with phase := .raw, din := noPorts } = .next t ∧ t.eng = es count.toNat ∧
        outwOf t = tapsOf (cfgOf s.cfg) es count.toNat

/-- 43_cipher.md R215: from any two non-faulted states of one configuration, the keystream after CIPHER_INIT with the
same key and IV is prefix-stable, and splitting the pulls over two commands changes nothing. -/
def Obligations.KeystreamIsPrefixStable : Prop :=
  ∀ (s s' : State) (ivlen : BitVec 8) (klen : BitVec 16) (key iv : List Byte) (m n : BitVec 16),
    s.fault = false → s'.fault = false → SameStraps s s' →
    32 ≤ klen.toNat → klen.toNat ≤ 64 → 32 ≤ ivlen.toNat → ivlen.toNat ≤ 64 →
    key.length = klen.toNat → iv.length = ivlen.toNat → m.toNat + n.toNat < 65536 →
    ∃ t u v t' u',
      exec (.cipherInit ivlen klen) (setDin ⟨none, none, some key, some iv⟩ s) = .next t ∧
      exec (.cipherKs m) t = .next u ∧ exec (.cipherKs n) u = .next v ∧
      exec (.cipherInit ivlen klen) (setDin ⟨none, none, some key, some iv⟩ s') = .next t' ∧
      exec (.cipherKs (m + n)) t' = .next u' ∧
      outbOf u = (outbOf u').take (32 * m.toNat) ∧ outbOf u ++ outbOf v = outbOf u' ∧
      (outbOf u').length = 32 * (m.toNat + n.toNat) ∧ v.eng = u'.eng

/-! ### Errors, phases, status -/

/-- 60_exceptions.md R236, R246: the phase table. In a phase that does not allow it a command raises PHASE_ERROR with the
number of the current phase (R26) and changes nothing else; where it is allowed, success leaves the phase of the table, a
recoverable error leaves the phase, and a contract violation leaves FAULTED; in FAULTED every command is refused; hard reset
goes to RAW. -/
def Obligations.ThePhaseTableHolds : Prop :=
  (∀ (i : Instr) (s : State), s.fault = false → ¬Allowed i s.phase →
    ∃ info : BitVec 8, info.toNat = phaseNumber s.phase ∧ exec i s = .next (failed s .phaseError info)) ∧
  (∀ (i : Instr) (s : State), s.fault = false → Allowed i s.phase →
    ∃ (t : State) (r : Response), exec i s = .next t ∧ t.resp = some r ∧ r.code ≠ .phaseError ∧
      (r.code = .ok → t.phase = phaseAfter i) ∧ (Recoverable r.code → t.phase = s.phase) ∧
      (r.code = .contractViolation → t.phase = .faulted)) ∧
  (∀ (i : Instr) (s : State), s.fault = true → exec i s = .next (refusedState s)) ∧
  (∀ (s : State) (rest : List HostEvent), s.inbox = .hardReset :: rest → ∃ t, step s = .next t ∧ t.phase = .raw)

/-- 60_exceptions.md R237: a request answers with exactly one code, that of the first check that applies: FAULT, decode,
phase, length range, contract, and otherwise success. -/
def Obligations.TheFirstErrorInPriorityIsReported : Prop :=
  ∀ (s : State) (r : Request) (rest : List HostEvent), s.inbox = .request r :: rest →
    ∃ (t : State) (a : Response), step s = .next t ∧ t.resp = some a ∧
      (¬LegalWord r.cw → (s.fault = true → a.code = .deviceFaulted ∧ a.info = 0) ∧
        (s.fault = false → a.code = .illegalCommand ∧ a.info.toNat = r.cw.toNat / 2 ^ 24)) ∧
      (∀ i, decode r.cw = .ok i → Answers i { s with din := r.ports } a.code a.info)

/-- 60_exceptions.md R234: CONTRACT_VIOLATION. A command allowed in its phase, with its lengths in range, whose data lists
are wrong sets `FAULT`, goes to FAULTED, records code 3 and the bits of the wrong lists, and answers them with no output;
of the engine nothing is said; nothing but hard reset brings the block back. -/
def Obligations.ContractViolationIsFatal : Prop :=
  (∀ (i : Instr) (s : State) (viol : BitVec 8), s.fault = false → Allowed i s.phase → (∀ c n, ¬RangeError i c n) →
    ViolOf i s.din viol → viol ≠ 0 → ∃ t, exec i s = .next t ∧ Violated s viol t) ∧
  (∀ s t : State, s.fault = true → (∀ rest, s.inbox ≠ .hardReset :: rest) → step s = .next t → t.fault = true)

/-- 60_exceptions.md section 3 (R238, R239): a recoverable error changes `ERRCODE`, `ERRINFO` and the response and nothing
else, and the next command runs as if the failed one had never been issued. -/
def Obligations.RecoverableErrorsLeaveNoTrace : Prop :=
  ∀ (s : State) (r : Request) (rest : List HostEvent) (t : State) (a : Response),
    s.inbox = .request r :: rest → step s = .next t → t.resp = some a → Recoverable a.code →
      t = failed { s with inbox := rest } a.code a.info ∧
      ∀ r' rest', rest = .request r' :: rest' → step t = step { s with inbox := rest }

/-- 60_exceptions.md R240: while `FAULT = 1` every request is refused with code 6, info 0 and no outputs and changes
nothing else; CONFIG and STATUS can still be read; only hard reset clears `FAULT`; and a run without a hard reset, however
long, answers with nothing but refusals and register reads and leaves the status as it was. -/
def Obligations.AFaultedBlockRefusesEverything : Prop :=
  (∀ (s : State) (r : Request) (rest : List HostEvent), s.fault = true → s.inbox = .request r :: rest →
    step s = .next (refusedState { s with inbox := rest })) ∧
  (∀ (s : State) (num : Nat) (rest : List HostEvent), s.fault = true → s.inbox = .readReg num :: rest →
    (num = 0 → step s = .next { s with inbox := rest, rdata := some (configReg s) }) ∧
    (num = 1 → step s = .next { s with inbox := rest, rdata := some (statusReg s) })) ∧
  (∀ (s : State) (rest : List HostEvent), s.inbox = .hardReset :: rest → ∃ t, step s = .next t ∧ t.fault = false) ∧
  (∀ (n : Nat) (s : State), s.fault = true → (∀ e ∈ s.inbox.take n, e ≠ .hardReset) →
    ∃ t, Host.Core.run core n s = .next t ∧ t.fault = true ∧ statusReg t = statusReg s ∧ t.eng = s.eng ∧
      (t.resp = s.resp ∨ t.resp = some ⟨.deviceFaulted, 0, [], []⟩))

/-- 60_exceptions.md R234: "the unspecified values are never observed": two states that differ only in the unspecified
engine of a fault and in the free values still to come take the same steps, with the same answers, for ever. -/
def Obligations.UnspecifiedValuesAreNeverObserved : Prop :=
  (∀ s s' t : State, SameButUnspecified s s' → step s = .next t →
    ∃ t', step s' = .next t' ∧ SameButUnspecified t t') ∧
  (∀ (n : Nat) (s s' t : State), SameButUnspecified s s' → Host.Core.run core n s = .next t →
    ∃ t', Host.Core.run core n s' = .next t' ∧ SameButUnspecified t t' ∧ t'.resp = t.resp ∧
      statusReg t' = statusReg t)

/-- 10_state.md R27: `FAULT` is 0 after hard reset; a contract violation, which only a request can answer, sets it, and nothing
else does; hard reset clears it, and nothing else does; and where `FAULT = 1` exactly when `PHASE = FAULTED`, a step keeps it
so. -/
def Obligations.TheFaultFlagIsSticky : Prop :=
  State.reset.fault = false ∧ (State.reset.fault = true ↔ State.reset.phase = .faulted) ∧
  ∀ s t : State, step s = .next t →
    (∀ r rest a, s.inbox = .request r :: rest → s.fault = false → t.resp = some a → a.code = .contractViolation →
      t.fault = true) ∧
    (s.fault = false → t.fault = true →
      ∃ r rest viol, s.inbox = .request r :: rest ∧ t.resp = some ⟨.contractViolation, viol, [], []⟩) ∧
    (s.fault = true → t.fault = false → ∃ rest, s.inbox = .hardReset :: rest) ∧
    (∀ rest, s.inbox = .hardReset :: rest → t.fault = false) ∧
    ((s.fault = true ↔ s.phase = .faulted) → (t.fault = true ↔ t.phase = .faulted))

/-- 10_state.md R28: `ERRCODE` and `ERRINFO` hold the result of the most recent command, 0 and 0 if it succeeded; once
`FAULT = 1` they are frozen. -/
def Obligations.StatusHoldsTheLastResult : Prop :=
  ∀ (s t : State) (r : Request) (rest : List HostEvent), s.inbox = .request r :: rest → step s = .next t →
    (s.fault = false → ∃ a, t.resp = some a ∧ t.errcode = a.code ∧ t.errinfo = a.info ∧
      (a.code = .ok → t.errinfo = 0)) ∧
    (s.fault = true → t.errcode = s.errcode ∧ t.errinfo = s.errinfo)

/-- 10_state.md R29: the two registers. CONFIG holds `ORDER` (LE 0, BE 1) and `NBLANK`; STATUS holds `PHASE` (R26: RAW 0,
HASH_ABSORBING 1, HASH_FINALIZED 2, CIPHER_READY 3, FAULTED 7), `FAULT`, `ERRCODE` (60_exceptions.md R231: OK 0,
INVALID_KEY_LENGTH 1, INVALID_TRUNCATION 2, CONTRACT_VIOLATION 3, ILLEGAL_COMMAND 4, PHASE_ERROR 5, DEVICE_FAULTED 6) and
`ERRINFO`; every other bit is 0; a read through the side port answers the register and has no other effect; a write, or any
other number, does nothing and reads as 0 (what a write answers is the model's reading, log entry 8). -/
def Obligations.RegistersReadAsLaidOut : Prop :=
  (∀ s : State,
    (configReg s).toNat = orderNumber s.order + 256 * s.nblank.toNat ∧
    (statusReg s).toNat = phaseNumber s.phase + 8 * s.fault.toNat + 16 * codeNumber s.errcode + 256 * s.errinfo.toNat) ∧
  (∀ (s : State) (num : Nat) (rest : List HostEvent), s.inbox = .readReg num :: rest →
    step s = .next { s with inbox := rest, rdata := some (if num = 0 then configReg s else
      if num = 1 then statusReg s else 0) }) ∧
  (∀ (s : State) (num : Nat) (v : Word) (rest : List HostEvent), s.inbox = .writeReg num v :: rest →
    step s = .next { s with inbox := rest, rdata := some 0 }) ∧
  statusReg State.reset = 0

/-- 60_exceptions.md R231 and 10_state.md R26 as an invariant of every step: what the status fields say of each other. -/
def Obligations.EveryStepKeepsTheStatusCoherent : Prop :=
  ∀ s t : State, Coherent s → step s = .next t → Coherent t

/-- The status fields are coherent at reset. -/
def Obligations.TheResetStateIsCoherent : Prop := Coherent State.reset

/-- The straps are constant for the life of the instance, through every step, hard reset included: the byte order
(20_memory.md R54) and the blank count (10_state.md R29, CONFIG), and the configuration record, which the spec makes an argument
of the block and one transform for every step (00_scope.md R7; 40_engine.md R115, R119). That the record is a field of the state is
the model's own (log entry 3). -/
def Obligations.StrapsNeverChange : Prop := ∀ s t : State, step s = .next t → SameStraps s t

/-- The frame of every command: the host's events, the side port and the straps are as before, the data has left the ports, a
response was given; without a contract violation the fault flag is as before, and with a recoverable error or a refusal so
are the engine and the phase (30_encoding.md R80; the ports are the model's, log entries 4, 5 and 6). -/
def Obligations.CommandsLeaveTheRestAlone : Prop :=
  ∀ (i : Instr) (s : State), ∃ (t : State) (a : Response), exec i s = .next t ∧ t.resp = some a ∧
    t.inbox = s.inbox ∧ t.rdata = s.rdata ∧ SameStraps s t ∧ t.din = noPorts ∧
    (a.code ≠ .contractViolation → t.draws = s.draws ∧ t.fault = s.fault) ∧
    (a.code ≠ .contractViolation → a.code ≠ .ok → t.eng = s.eng ∧ t.phase = s.phase)

/-- 20_memory.md section 3: how much each successful command gives: `COUNT` Blocks for ITERATE with `O`, `n` bytes for
HASH_FINAL, `32*COUNT` bytes for CIPHER_KS, nothing for the others and nothing with an error. -/
def Obligations.ResponsesHaveTheStatedLengths : Prop :=
  ∀ (i : Instr) (s t : State) (a : Response), exec i s = .next t → t.resp = some a →
    (a.code ≠ .ok → a.outw = [] ∧ a.outb = []) ∧
    (a.code = .ok →
      a.outw.length = (match i with
        | .iterO c => c.toNat | .iterPO c => c.toNat | .iterKO _ c => c.toNat | .iterPKO _ c => c.toNat
        | .reset => 0 | .iter _ => 0 | .iterP _ => 0 | .iterK _ _ => 0 | .iterPK _ _ => 0 | .hashInit => 0
        | .hashBlock => 0 | .hashFinal _ => 0 | .cipherInit _ _ => 0 | .cipherKs _ => 0) ∧
      a.outb.length = (match i with
        | .hashFinal n => n.toNat | .cipherKs c => 32 * c.toNat
        | .reset => 0 | .iter _ => 0 | .iterP _ => 0 | .iterO _ => 0 | .iterPO _ => 0 | .iterK _ _ => 0
        | .iterPK _ _ => 0 | .iterKO _ _ => 0 | .iterPKO _ _ => 0 | .hashInit => 0 | .hashBlock => 0
        | .cipherInit _ _ => 0))

/-! ### What no answer depends on -/

/-- No answer and no other state depends on the scratch half `c`: two states that differ in it alone take steps to states that
differ in it at most. 10_state.md R32 says so under the reference value of the configuration record; for every record it follows
from 40_engine.md R112, whose four functions take the accumulator and the history and not `c`, and from 10_state.md R22, where `c`
is a half that no output depends on. -/
def Obligations.NoAnswerDependsOnTheScratchHalf : Prop :=
  ∀ (s : State) (x : Acc), ∃ t t', step s = .next t ∧ step (withC x s) = .next t' ∧ withC x t' = withC x t

/-- 10_state.md section 1 (R25): no command can tell where in the physical slots the history stands: two states with the
same logical view and otherwise alike take steps to states that are so again, with the same answers. -/
def Obligations.NoCommandSeesPhysicalSlots : Prop :=
  ∀ s s' t : State, SameView s s' → step s = .next t → ∃ t', step s' = .next t' ∧ SameView t t'

/-! ### The host's side -/

/-- 30_encoding.md section 2 (R82): a source call `Iterate(count, p, z, k)` of any count, issued as several ITERATE
commands, runs exactly the `count` steps of the one call. -/
def Obligations.SplitCallsRunTheWholeCall : Prop :=
  ∀ (count : Nat) (p : Option (List Block)) (z : Bool) (k : Option (List Block)) (s : State),
    s.fault = false → s.phase = .raw → (∀ l, p = some l → l.length = count) →
    (∀ l, k = some l → 1 ≤ l.length ∧ l.length ≤ count) →
    ∃ (es : Nat → Engine) (t : State), es 0 = s.eng ∧
      RunRel (cfgOf s.cfg) (fun t => elemAt p t) (fun t => elemAt k t) count es ∧
      runCommands (splitCall count count p z k) s = .next t ∧ t.eng = es count ∧ t.phase = .raw ∧ t.fault = false ∧
      t.errcode = .ok

/-- 43_cipher.md section 2 (CRYPT): decryption is encryption: the host procedure run from any two non-faulted states of one
configuration with the same key and IV, on data one keystream command can cover, and applied to its own result, gives the
data back, byte for byte. -/
def Obligations.CryptTwiceIsTheData : Prop :=
  ∀ (s s' : State) (key iv data : List Byte), s.fault = false → s'.fault = false → SameStraps s s' →
    32 ≤ key.length → key.length ≤ 64 → 32 ≤ iv.length → iv.length ≤ 64 → data.length ≤ 32 * 65535 →
    ∃ t t', runCommands (cryptCommands key iv data.length) s = .next t ∧
      runCommands (cryptCommands key iv data.length) s' = .next t' ∧ t.errcode = .ok ∧ t'.errcode = .ok ∧
      (xorData data (outbOf t)).length = data.length ∧
      xorData (xorData data (outbOf t)) (outbOf t') = data
end

