-- ==== Sys2Proof/Laws/Decode.lean ====
section
/-! SUPPORT. The fields of a command word built from its parts. -/

namespace Sys2Proof

/-- Bit `i` of a command word. -/
theorem mkWord_getLsbD (top arg2 : BitVec 8) (arg1 : BitVec 16) (i : Nat) :
    (mkWord top arg2 arg1).getLsbD i =
      if i < 16 then arg1.getLsbD i else if i < 24 then arg2.getLsbD (i - 16) else top.getLsbD (i - 24) := by
  show BitVec.getLsbD (w := 8 + 8 + 16) (top ++ arg2 ++ arg1) i = _
  simp only [BitVec.getLsbD_append]
  split
  · rfl
  · by_cases h : i < 24
    · rw [if_pos (by omega), if_pos h]
    · rw [if_neg (by omega), if_neg h]
      congr 1

@[simp] theorem arg1Of_mkWord (top arg2 : BitVec 8) (arg1 : BitVec 16) : arg1Of (mkWord top arg2 arg1) = arg1 := by
  ext i hi
  simp [arg1Of, mkWord_getLsbD, hi]

@[simp] theorem arg2Of_mkWord (top arg2 : BitVec 8) (arg1 : BitVec 16) : arg2Of (mkWord top arg2 arg1) = arg2 := by
  ext i hi
  have h : 16 + i < 24 := by omega
  simp [arg2Of, mkWord_getLsbD, h, hi]

@[simp] theorem topByteOf_mkWord (top arg2 : BitVec 8) (arg1 : BitVec 16) : topByteOf (mkWord top arg2 arg1) = top := by
  ext i hi
  have h : ¬24 + i < 16 := by omega
  simp [topByteOf, mkWord_getLsbD, h, hi]

@[simp] theorem flagsOf_mkWord (top arg2 : BitVec 8) (arg1 : BitVec 16) :
    flagsOf (mkWord top arg2 arg1) = top.extractLsb' 0 4 := by
  ext i hi
  have h : ¬24 + i < 16 := by omega
  simp [flagsOf, mkWord_getLsbD, h]

@[simp] theorem opcOf_mkWord (top arg2 : BitVec 8) (arg1 : BitVec 16) :
    opcOf (mkWord top arg2 arg1) = top.extractLsb' 4 4 := by
  ext i hi
  have h : ¬28 + i < 16 := by omega
  have h' : ¬28 + i < 24 := by omega
  have h2 : 28 + i - 24 = 4 + i := by omega
  simp [opcOf, mkWord_getLsbD, h, h', h2]

/-- A word is its top byte, its `ARG2` and its `ARG1`. -/
theorem mkWord_fields (w : Word) : mkWord (topByteOf w) (arg2Of w) (arg1Of w) = w := by
  apply BitVec.eq_of_getLsbD_eq
  intro i hi
  rw [mkWord_getLsbD]
  split
  · simp [arg1Of, *]
  · split
    · have h : i - 16 < 8 := by omega
      have h2 : 16 + (i - 16) = i := by omega
      simp [arg2Of, h, h2]
    · have h : i - 24 < 8 := by omega
      have h2 : 24 + (i - 24) = i := by omega
      simp [topByteOf, h, h2]

end Sys2Proof
end

