-- ==== Sys2Proof/Laws/Diffusion.lean ====
section
/-! SUPPORT. The passes of `cfg_ref` read word by word. -/

namespace Sys2Proof.Machine

@[simp] theorem xorBlock_getElem (x y : Block) (i : Nat) (h : i < 8) : (xorBlock x y)[i] = x[i] ^^^ y[i] := by
  simp [xorBlock]

@[simp] theorem gammaPass_getElem (A : Acc) (i : Nat) (h : i < 17) :
    (gammaPass A)[i] = A[i] ^^^ (A[(i + 1) % 17] ||| ~~~A[(i + 2) % 17]) := by
  simp [gammaPass, Fin.val_add]

@[simp] theorem piPass_getElem (G : Acc) (i : Nat) (h : i < 17) :
    (piPass G)[i] = rotl G[7 * i % 17] (i * (i + 1) / 2 % 32) := by
  simp [piPass, Fin.val_mul]

@[simp] theorem thetaPass_getElem (C : Acc) (i : Nat) (h : i < 17) :
    (thetaPass C)[i] = C[i] ^^^ C[(i + 1) % 17] ^^^ C[(i + 4) % 17] := by
  simp [thetaPass, Fin.val_add]

theorem sigmaPass_zero (T : Acc) (H : History) (p : Option Block) : (sigmaPass T H p)[0] = T[0] ^^^ 1#32 := by
  simp [sigmaPass]

theorem sigmaPass_low (T : Acc) (H : History) (p : Option Block) (i : Nat) (h : i < 8) :
    (sigmaPass T H p)[i + 1] = T[i + 1] ^^^ (p.getD H[4])[i] := by
  have : i + 1 ≤ 8 := h
  simp [sigmaPass, this]

theorem sigmaPass_high (T : Acc) (H : History) (p : Option Block) (i : Nat) (h : i < 8) :
    (sigmaPass T H p)[i + 9] = T[i + 9] ^^^ H[16][i] := by
  simp [sigmaPass]

theorem lambdaPass_head (A : Acc) (H : History) (p : Option Block) :
    (lambdaPass A H p)[0] = xorBlock H[31] (p.getD (Vector.ofFn fun i : Fin 8 => A[i.val + 1])) := by
  simp [lambdaPass]

theorem lambdaPass_rewritten (A : Acc) (H : History) (p : Option Block) (i : Nat) (h : i < 8) :
    (lambdaPass A H p)[25][i] = H[24][i] ^^^ H[31][(i + 2) % 8] := by
  have h25 : (lambdaPass A H p)[25] = Vector.ofFn fun i : Fin 8 => H[24][i] ^^^ H[31][i + 2] := by
    rw [lambdaPass, Vector.getElem_ofFn, if_neg (by simp [Fin.ext_iff])]
    exact if_pos rfl
  simp [h25, Fin.val_add]

/-- Every other stage is one place older. -/
theorem lambdaPass_older (A : Acc) (H : History) (p : Option Block) (j : Nat) (hj : j < 32) (h0 : j ≠ 0)
    (h25 : j ≠ 25) : (lambdaPass A H p)[j] = H[j - 1] := by
  have h1 : (⟨j, hj⟩ - 1 : Fin 32).val = j - 1 := by
    rw [Fin.sub_def]
    simp
    omega
  simp only [lambdaPass, Vector.getElem_ofFn]
  rw [if_neg (by simpa [Fin.ext_iff] using h0), if_neg (by simpa [Fin.ext_iff] using h25)]
  simp [h1]

@[simp] theorem refTap_getElem (A : Acc) (ev : Stage) (i : Nat) (h : i < 8) : (refTap A ev)[i] = A[i + 9] := by
  simp [refTap]

end Sys2Proof.Machine
end

