-- ==== Sys2Proof/Laws/Engine.lean ====
section
/-! SUPPORT. The history under the cursor, the step and runs of steps. -/

namespace Sys2Proof.Machine

/-! ### The logical view -/

@[simp] theorem slotOf_val (bstart j : Fin 32) : (slotOf bstart j).val = (bstart.val + j.val) % 32 := rfl

theorem logicalOf_getElem (bstart : Fin 32) (b : History) (j : Nat) (h : j < 32) :
    (logicalOf bstart b)[j] = b[(bstart.val + j) % 32] := by
  simp [logicalOf]

theorem physicalOf_getElem (bstart : Fin 32) (H : History) (s : Nat) (h : s < 32) :
    (physicalOf bstart H)[s] = H[(s + 32 - bstart.val) % 32] := by
  simp only [physicalOf, Vector.getElem_ofFn, Fin.getElem_fin, Fin.sub_def]
  congr 1
  omega

/-- The history written under a cursor is the one read under it (R112, R25). -/
@[simp] theorem logicalOf_physicalOf (bstart : Fin 32) (H : History) : logicalOf bstart (physicalOf bstart H) = H := by
  ext1 j hj
  rw [logicalOf_getElem, physicalOf_getElem _ _ _ (Nat.mod_lt _ (by decide))]
  congr 1
  omega

@[simp] theorem physicalOf_logicalOf (bstart : Fin 32) (b : History) : physicalOf bstart (logicalOf bstart b) = b := by
  ext1 s hs
  rw [physicalOf_getElem _ _ _ hs, logicalOf_getElem _ _ _ (Nat.mod_lt _ (by decide))]
  congr 1
  omega

/-! ### The step -/

@[simp] theorem engineStep_a (cfg : Cfg) (i : StepInput) (pull : Bool) (e : Engine) :
    (engineStep cfg i pull e).1.a = cfg.accStep e.a e.logical i.1 i.2 := rfl

@[simp] theorem engineStep_c (cfg : Cfg) (i : StepInput) (pull : Bool) (e : Engine) :
    (engineStep cfg i pull e).1.c = cfg.scratchStep e.a e.logical i.1 i.2 := rfl

@[simp] theorem engineStep_bstart (cfg : Cfg) (i : StepInput) (pull : Bool) (e : Engine) :
    (engineStep cfg i pull e).1.bstart = e.bstart + stride := rfl

@[simp] theorem engineStep_logical (cfg : Cfg) (i : StepInput) (pull : Bool) (e : Engine) :
    (engineStep cfg i pull e).1.logical = cfg.bufStep e.a e.logical i.1 i.2 := by
  simp [engineStep, Engine.logical]

theorem engineStep_out (cfg : Cfg) (i : StepInput) (pull : Bool) (e : Engine) :
    (engineStep cfg i pull e).2 = if pull then some (cfg.tap e.a e.logical[31]) else none := rfl

/-- Pulling does not change what a step does to the engine (R116). -/
theorem engineStep_pull (cfg : Cfg) (i : StepInput) (pull pull' : Bool) (e : Engine) :
    (engineStep cfg i pull e).1 = (engineStep cfg i pull' e).1 := rfl

/-! ### Runs -/

@[simp] theorem engineRun_nil (cfg : Cfg) (pull : Bool) (e : Engine) : engineRun cfg pull [] e = (e, []) := rfl

theorem engineRun_cons (cfg : Cfg) (pull : Bool) (i : StepInput) (l : List StepInput) (e : Engine) :
    engineRun cfg pull (i :: l) e =
      ((engineRun cfg pull l (engineStep cfg i pull e).1).1,
        (engineStep cfg i pull e).2.toList ++ (engineRun cfg pull l (engineStep cfg i pull e).1).2) := rfl

/-- Runs compose: steps and outputs follow one another (R121). -/
theorem engineRun_append (cfg : Cfg) (pull : Bool) (l m : List StepInput) (e : Engine) :
    engineRun cfg pull (l ++ m) e =
      ((engineRun cfg pull m (engineRun cfg pull l e).1).1,
        (engineRun cfg pull l e).2 ++ (engineRun cfg pull m (engineRun cfg pull l e).1).2) := by
  induction l generalizing e with
  | nil => simp
  | cons i l ih => simp [engineRun_cons, ih]

/-- The engine after a run does not depend on pulling (R116). -/
theorem engineRun_pull (cfg : Cfg) (pull pull' : Bool) (l : List StepInput) (e : Engine) :
    (engineRun cfg pull l e).1 = (engineRun cfg pull' l e).1 := by
  induction l generalizing e with
  | nil => rfl
  | cons i l ih => simp only [engineRun_cons]; exact ih _

/-- A run that does not pull gives no output. -/
@[simp] theorem engineRun_quiet (cfg : Cfg) (l : List StepInput) (e : Engine) : (engineRun cfg false l e).2 = [] := by
  induction l generalizing e with
  | nil => rfl
  | cons i l ih => simp [engineRun_cons, engineStep_out, ih]

/-- A run that pulls gives one Block a step. -/
@[simp] theorem engineRun_pulled_length (cfg : Cfg) (l : List StepInput) (e : Engine) :
    (engineRun cfg true l e).2.length = l.length := by
  induction l generalizing e with
  | nil => rfl
  | cons i l ih => simp [engineRun_cons, engineStep_out, ih, Nat.add_comm]

end Sys2Proof.Machine
end

