-- ==== Sys2Proof/Laws/State.lean ====
section
/-! SUPPORT. What each named update of the state leaves in each field: one lemma per field per update. -/

namespace Sys2Proof.Machine

/-! ### setEng -/

@[simp] theorem setEng_eng (e : Engine) (s : State) : (setEng e s).eng = e := rfl

@[simp] theorem setEng_phase (e : Engine) (s : State) : (setEng e s).phase = s.phase := rfl

@[simp] theorem setEng_fault (e : Engine) (s : State) : (setEng e s).fault = s.fault := rfl

@[simp] theorem setEng_errcode (e : Engine) (s : State) : (setEng e s).errcode = s.errcode := rfl

@[simp] theorem setEng_errinfo (e : Engine) (s : State) : (setEng e s).errinfo = s.errinfo := rfl

@[simp] theorem setEng_order (e : Engine) (s : State) : (setEng e s).order = s.order := rfl

@[simp] theorem setEng_nblank (e : Engine) (s : State) : (setEng e s).nblank = s.nblank := rfl

@[simp] theorem setEng_cfg (e : Engine) (s : State) : (setEng e s).cfg = s.cfg := rfl

@[simp] theorem setEng_din (e : Engine) (s : State) : (setEng e s).din = s.din := rfl

@[simp] theorem setEng_resp (e : Engine) (s : State) : (setEng e s).resp = s.resp := rfl

@[simp] theorem setEng_rdata (e : Engine) (s : State) : (setEng e s).rdata = s.rdata := rfl

@[simp] theorem setEng_inbox (e : Engine) (s : State) : (setEng e s).inbox = s.inbox := rfl

@[simp] theorem setEng_draws (e : Engine) (s : State) : (setEng e s).draws = s.draws := rfl

/-! ### setPhase -/

@[simp] theorem setPhase_eng (p : Phase) (s : State) : (setPhase p s).eng = s.eng := rfl

@[simp] theorem setPhase_phase (p : Phase) (s : State) : (setPhase p s).phase = p := rfl

@[simp] theorem setPhase_fault (p : Phase) (s : State) : (setPhase p s).fault = s.fault := rfl

@[simp] theorem setPhase_errcode (p : Phase) (s : State) : (setPhase p s).errcode = s.errcode := rfl

@[simp] theorem setPhase_errinfo (p : Phase) (s : State) : (setPhase p s).errinfo = s.errinfo := rfl

@[simp] theorem setPhase_order (p : Phase) (s : State) : (setPhase p s).order = s.order := rfl

@[simp] theorem setPhase_nblank (p : Phase) (s : State) : (setPhase p s).nblank = s.nblank := rfl

@[simp] theorem setPhase_cfg (p : Phase) (s : State) : (setPhase p s).cfg = s.cfg := rfl

@[simp] theorem setPhase_din (p : Phase) (s : State) : (setPhase p s).din = s.din := rfl

@[simp] theorem setPhase_resp (p : Phase) (s : State) : (setPhase p s).resp = s.resp := rfl

@[simp] theorem setPhase_rdata (p : Phase) (s : State) : (setPhase p s).rdata = s.rdata := rfl

@[simp] theorem setPhase_inbox (p : Phase) (s : State) : (setPhase p s).inbox = s.inbox := rfl

@[simp] theorem setPhase_draws (p : Phase) (s : State) : (setPhase p s).draws = s.draws := rfl

/-! ### setResult -/

@[simp] theorem setResult_eng (code : ErrCode) (info : BitVec 8) (s : State) : (setResult code info s).eng = s.eng := rfl

@[simp] theorem setResult_phase (code : ErrCode) (info : BitVec 8) (s : State) : (setResult code info s).phase = s.phase := rfl

@[simp] theorem setResult_fault (code : ErrCode) (info : BitVec 8) (s : State) : (setResult code info s).fault = s.fault := rfl

@[simp] theorem setResult_errcode (code : ErrCode) (info : BitVec 8) (s : State) : (setResult code info s).errcode = code := rfl

@[simp] theorem setResult_errinfo (code : ErrCode) (info : BitVec 8) (s : State) : (setResult code info s).errinfo = info := rfl

@[simp] theorem setResult_order (code : ErrCode) (info : BitVec 8) (s : State) : (setResult code info s).order = s.order := rfl

@[simp] theorem setResult_nblank (code : ErrCode) (info : BitVec 8) (s : State) : (setResult code info s).nblank = s.nblank := rfl

@[simp] theorem setResult_cfg (code : ErrCode) (info : BitVec 8) (s : State) : (setResult code info s).cfg = s.cfg := rfl

@[simp] theorem setResult_din (code : ErrCode) (info : BitVec 8) (s : State) : (setResult code info s).din = s.din := rfl

@[simp] theorem setResult_resp (code : ErrCode) (info : BitVec 8) (s : State) : (setResult code info s).resp = s.resp := rfl

@[simp] theorem setResult_rdata (code : ErrCode) (info : BitVec 8) (s : State) : (setResult code info s).rdata = s.rdata := rfl

@[simp] theorem setResult_inbox (code : ErrCode) (info : BitVec 8) (s : State) : (setResult code info s).inbox = s.inbox := rfl

@[simp] theorem setResult_draws (code : ErrCode) (info : BitVec 8) (s : State) : (setResult code info s).draws = s.draws := rfl

/-! ### respond -/

@[simp] theorem respond_eng (r : Response) (s : State) : (respond r s).eng = s.eng := rfl

@[simp] theorem respond_phase (r : Response) (s : State) : (respond r s).phase = s.phase := rfl

@[simp] theorem respond_fault (r : Response) (s : State) : (respond r s).fault = s.fault := rfl

@[simp] theorem respond_errcode (r : Response) (s : State) : (respond r s).errcode = s.errcode := rfl

@[simp] theorem respond_errinfo (r : Response) (s : State) : (respond r s).errinfo = s.errinfo := rfl

@[simp] theorem respond_order (r : Response) (s : State) : (respond r s).order = s.order := rfl

@[simp] theorem respond_nblank (r : Response) (s : State) : (respond r s).nblank = s.nblank := rfl

@[simp] theorem respond_cfg (r : Response) (s : State) : (respond r s).cfg = s.cfg := rfl

@[simp] theorem respond_din (r : Response) (s : State) : (respond r s).din = noPorts := rfl

@[simp] theorem respond_resp (r : Response) (s : State) : (respond r s).resp = some r := rfl

@[simp] theorem respond_rdata (r : Response) (s : State) : (respond r s).rdata = s.rdata := rfl

@[simp] theorem respond_inbox (r : Response) (s : State) : (respond r s).inbox = s.inbox := rfl

@[simp] theorem respond_draws (r : Response) (s : State) : (respond r s).draws = s.draws := rfl

/-! ### setFault -/

@[simp] theorem setFault_eng (s : State) : (setFault s).eng = s.eng := rfl

@[simp] theorem setFault_phase (s : State) : (setFault s).phase = s.phase := rfl

@[simp] theorem setFault_fault (s : State) : (setFault s).fault = true := rfl

@[simp] theorem setFault_errcode (s : State) : (setFault s).errcode = s.errcode := rfl

@[simp] theorem setFault_errinfo (s : State) : (setFault s).errinfo = s.errinfo := rfl

@[simp] theorem setFault_order (s : State) : (setFault s).order = s.order := rfl

@[simp] theorem setFault_nblank (s : State) : (setFault s).nblank = s.nblank := rfl

@[simp] theorem setFault_cfg (s : State) : (setFault s).cfg = s.cfg := rfl

@[simp] theorem setFault_din (s : State) : (setFault s).din = s.din := rfl

@[simp] theorem setFault_resp (s : State) : (setFault s).resp = s.resp := rfl

@[simp] theorem setFault_rdata (s : State) : (setFault s).rdata = s.rdata := rfl

@[simp] theorem setFault_inbox (s : State) : (setFault s).inbox = s.inbox := rfl

@[simp] theorem setFault_draws (s : State) : (setFault s).draws = s.draws := rfl

/-! ### scramble -/

@[simp] theorem scramble_eng (s : State) : (scramble s).eng = ⟨Config.freeA s.draws, Config.freeC s.draws, Config.freeB s.draws, Config.freeBstart s.draws⟩ := rfl

@[simp] theorem scramble_phase (s : State) : (scramble s).phase = s.phase := rfl

@[simp] theorem scramble_fault (s : State) : (scramble s).fault = s.fault := rfl

@[simp] theorem scramble_errcode (s : State) : (scramble s).errcode = s.errcode := rfl

@[simp] theorem scramble_errinfo (s : State) : (scramble s).errinfo = s.errinfo := rfl

@[simp] theorem scramble_order (s : State) : (scramble s).order = s.order := rfl

@[simp] theorem scramble_nblank (s : State) : (scramble s).nblank = s.nblank := rfl

@[simp] theorem scramble_cfg (s : State) : (scramble s).cfg = s.cfg := rfl

@[simp] theorem scramble_din (s : State) : (scramble s).din = s.din := rfl

@[simp] theorem scramble_resp (s : State) : (scramble s).resp = s.resp := rfl

@[simp] theorem scramble_rdata (s : State) : (scramble s).rdata = s.rdata := rfl

@[simp] theorem scramble_inbox (s : State) : (scramble s).inbox = s.inbox := rfl

@[simp] theorem scramble_draws (s : State) : (scramble s).draws = s.draws + 1 := rfl

/-! ### setRdata -/

@[simp] theorem setRdata_eng (v : Word) (s : State) : (setRdata v s).eng = s.eng := rfl

@[simp] theorem setRdata_phase (v : Word) (s : State) : (setRdata v s).phase = s.phase := rfl

@[simp] theorem setRdata_fault (v : Word) (s : State) : (setRdata v s).fault = s.fault := rfl

@[simp] theorem setRdata_errcode (v : Word) (s : State) : (setRdata v s).errcode = s.errcode := rfl

@[simp] theorem setRdata_errinfo (v : Word) (s : State) : (setRdata v s).errinfo = s.errinfo := rfl

@[simp] theorem setRdata_order (v : Word) (s : State) : (setRdata v s).order = s.order := rfl

@[simp] theorem setRdata_nblank (v : Word) (s : State) : (setRdata v s).nblank = s.nblank := rfl

@[simp] theorem setRdata_cfg (v : Word) (s : State) : (setRdata v s).cfg = s.cfg := rfl

@[simp] theorem setRdata_din (v : Word) (s : State) : (setRdata v s).din = s.din := rfl

@[simp] theorem setRdata_resp (v : Word) (s : State) : (setRdata v s).resp = s.resp := rfl

@[simp] theorem setRdata_rdata (v : Word) (s : State) : (setRdata v s).rdata = some v := rfl

@[simp] theorem setRdata_inbox (v : Word) (s : State) : (setRdata v s).inbox = s.inbox := rfl

@[simp] theorem setRdata_draws (v : Word) (s : State) : (setRdata v s).draws = s.draws := rfl

/-! ### setInbox -/

@[simp] theorem setInbox_eng (l : List HostEvent) (s : State) : (setInbox l s).eng = s.eng := rfl

@[simp] theorem setInbox_phase (l : List HostEvent) (s : State) : (setInbox l s).phase = s.phase := rfl

@[simp] theorem setInbox_fault (l : List HostEvent) (s : State) : (setInbox l s).fault = s.fault := rfl

@[simp] theorem setInbox_errcode (l : List HostEvent) (s : State) : (setInbox l s).errcode = s.errcode := rfl

@[simp] theorem setInbox_errinfo (l : List HostEvent) (s : State) : (setInbox l s).errinfo = s.errinfo := rfl

@[simp] theorem setInbox_order (l : List HostEvent) (s : State) : (setInbox l s).order = s.order := rfl

@[simp] theorem setInbox_nblank (l : List HostEvent) (s : State) : (setInbox l s).nblank = s.nblank := rfl

@[simp] theorem setInbox_cfg (l : List HostEvent) (s : State) : (setInbox l s).cfg = s.cfg := rfl

@[simp] theorem setInbox_din (l : List HostEvent) (s : State) : (setInbox l s).din = s.din := rfl

@[simp] theorem setInbox_resp (l : List HostEvent) (s : State) : (setInbox l s).resp = s.resp := rfl

@[simp] theorem setInbox_rdata (l : List HostEvent) (s : State) : (setInbox l s).rdata = s.rdata := rfl

@[simp] theorem setInbox_inbox (l : List HostEvent) (s : State) : (setInbox l s).inbox = l := rfl

@[simp] theorem setInbox_draws (l : List HostEvent) (s : State) : (setInbox l s).draws = s.draws := rfl

/-! ### setDin -/

@[simp] theorem setDin_eng (d : Ports) (s : State) : (setDin d s).eng = s.eng := rfl

@[simp] theorem setDin_phase (d : Ports) (s : State) : (setDin d s).phase = s.phase := rfl

@[simp] theorem setDin_fault (d : Ports) (s : State) : (setDin d s).fault = s.fault := rfl

@[simp] theorem setDin_errcode (d : Ports) (s : State) : (setDin d s).errcode = s.errcode := rfl

@[simp] theorem setDin_errinfo (d : Ports) (s : State) : (setDin d s).errinfo = s.errinfo := rfl

@[simp] theorem setDin_order (d : Ports) (s : State) : (setDin d s).order = s.order := rfl

@[simp] theorem setDin_nblank (d : Ports) (s : State) : (setDin d s).nblank = s.nblank := rfl

@[simp] theorem setDin_cfg (d : Ports) (s : State) : (setDin d s).cfg = s.cfg := rfl

@[simp] theorem setDin_din (d : Ports) (s : State) : (setDin d s).din = d := rfl

@[simp] theorem setDin_resp (d : Ports) (s : State) : (setDin d s).resp = s.resp := rfl

@[simp] theorem setDin_rdata (d : Ports) (s : State) : (setDin d s).rdata = s.rdata := rfl

@[simp] theorem setDin_inbox (d : Ports) (s : State) : (setDin d s).inbox = s.inbox := rfl

@[simp] theorem setDin_draws (d : Ports) (s : State) : (setDin d s).draws = s.draws := rfl

/-! ### zeroEngine -/

@[simp] theorem zeroEngine_eng (s : State) : (zeroEngine s).eng = Engine.zero := rfl

@[simp] theorem zeroEngine_phase (s : State) : (zeroEngine s).phase = s.phase := rfl

@[simp] theorem zeroEngine_fault (s : State) : (zeroEngine s).fault = s.fault := rfl

@[simp] theorem zeroEngine_errcode (s : State) : (zeroEngine s).errcode = s.errcode := rfl

@[simp] theorem zeroEngine_errinfo (s : State) : (zeroEngine s).errinfo = s.errinfo := rfl

@[simp] theorem zeroEngine_order (s : State) : (zeroEngine s).order = s.order := rfl

@[simp] theorem zeroEngine_nblank (s : State) : (zeroEngine s).nblank = s.nblank := rfl

@[simp] theorem zeroEngine_cfg (s : State) : (zeroEngine s).cfg = s.cfg := rfl

@[simp] theorem zeroEngine_din (s : State) : (zeroEngine s).din = s.din := rfl

@[simp] theorem zeroEngine_resp (s : State) : (zeroEngine s).resp = s.resp := rfl

@[simp] theorem zeroEngine_rdata (s : State) : (zeroEngine s).rdata = s.rdata := rfl

@[simp] theorem zeroEngine_inbox (s : State) : (zeroEngine s).inbox = s.inbox := rfl

@[simp] theorem zeroEngine_draws (s : State) : (zeroEngine s).draws = s.draws := rfl

/-! ### succeed -/

@[simp] theorem succeed_eng (outw : List Block) (outb : List Byte) (s : State) : (succeed outw outb s).eng = s.eng := rfl

@[simp] theorem succeed_phase (outw : List Block) (outb : List Byte) (s : State) : (succeed outw outb s).phase = s.phase := rfl

@[simp] theorem succeed_fault (outw : List Block) (outb : List Byte) (s : State) : (succeed outw outb s).fault = s.fault := rfl

@[simp] theorem succeed_errcode (outw : List Block) (outb : List Byte) (s : State) : (succeed outw outb s).errcode = .ok := rfl

@[simp] theorem succeed_errinfo (outw : List Block) (outb : List Byte) (s : State) : (succeed outw outb s).errinfo = 0 := rfl

@[simp] theorem succeed_order (outw : List Block) (outb : List Byte) (s : State) : (succeed outw outb s).order = s.order := rfl

@[simp] theorem succeed_nblank (outw : List Block) (outb : List Byte) (s : State) : (succeed outw outb s).nblank = s.nblank := rfl

@[simp] theorem succeed_cfg (outw : List Block) (outb : List Byte) (s : State) : (succeed outw outb s).cfg = s.cfg := rfl

@[simp] theorem succeed_din (outw : List Block) (outb : List Byte) (s : State) : (succeed outw outb s).din = noPorts := rfl

@[simp] theorem succeed_resp (outw : List Block) (outb : List Byte) (s : State) : (succeed outw outb s).resp = some ⟨.ok, 0, outw, outb⟩ := rfl

@[simp] theorem succeed_rdata (outw : List Block) (outb : List Byte) (s : State) : (succeed outw outb s).rdata = s.rdata := rfl

@[simp] theorem succeed_inbox (outw : List Block) (outb : List Byte) (s : State) : (succeed outw outb s).inbox = s.inbox := rfl

@[simp] theorem succeed_draws (outw : List Block) (outb : List Byte) (s : State) : (succeed outw outb s).draws = s.draws := rfl

/-! ### pushMessage -/

@[simp] theorem pushMessage_eng (s : State) : (pushMessage s).eng = (runOf false [(some (messageBlock s), none)] s).1 := rfl

@[simp] theorem pushMessage_phase (s : State) : (pushMessage s).phase = s.phase := rfl

@[simp] theorem pushMessage_fault (s : State) : (pushMessage s).fault = s.fault := rfl

@[simp] theorem pushMessage_errcode (s : State) : (pushMessage s).errcode = s.errcode := rfl

@[simp] theorem pushMessage_errinfo (s : State) : (pushMessage s).errinfo = s.errinfo := rfl

@[simp] theorem pushMessage_order (s : State) : (pushMessage s).order = s.order := rfl

@[simp] theorem pushMessage_nblank (s : State) : (pushMessage s).nblank = s.nblank := rfl

@[simp] theorem pushMessage_cfg (s : State) : (pushMessage s).cfg = s.cfg := rfl

@[simp] theorem pushMessage_din (s : State) : (pushMessage s).din = s.din := rfl

@[simp] theorem pushMessage_resp (s : State) : (pushMessage s).resp = s.resp := rfl

@[simp] theorem pushMessage_rdata (s : State) : (pushMessage s).rdata = s.rdata := rfl

@[simp] theorem pushMessage_inbox (s : State) : (pushMessage s).inbox = s.inbox := rfl

@[simp] theorem pushMessage_draws (s : State) : (pushMessage s).draws = s.draws := rfl

/-! ### hardReset -/

@[simp] theorem hardReset_eng (s : State) : (hardReset s).eng = Engine.zero := rfl

@[simp] theorem hardReset_phase (s : State) : (hardReset s).phase = .raw := rfl

@[simp] theorem hardReset_fault (s : State) : (hardReset s).fault = false := rfl

@[simp] theorem hardReset_errcode (s : State) : (hardReset s).errcode = .ok := rfl

@[simp] theorem hardReset_errinfo (s : State) : (hardReset s).errinfo = 0 := rfl

@[simp] theorem hardReset_order (s : State) : (hardReset s).order = s.order := rfl

@[simp] theorem hardReset_nblank (s : State) : (hardReset s).nblank = s.nblank := rfl

@[simp] theorem hardReset_cfg (s : State) : (hardReset s).cfg = s.cfg := rfl

@[simp] theorem hardReset_din (s : State) : (hardReset s).din = noPorts := rfl

@[simp] theorem hardReset_resp (s : State) : (hardReset s).resp = none := rfl

@[simp] theorem hardReset_rdata (s : State) : (hardReset s).rdata = none := rfl

@[simp] theorem hardReset_inbox (s : State) : (hardReset s).inbox = s.inbox := rfl

@[simp] theorem hardReset_draws (s : State) : (hardReset s).draws = s.draws := rfl

end Sys2Proof.Machine
end

