-- ==== Sys2Proof/Laws/Ops.lean ====
section
/-! SUPPORT. What each shared operation can do, said once. -/

namespace Sys2Proof.Machine

/-! ### Errors (60_exceptions.md R230, R234, R240) -/

theorem raiseError_deviceFaulted (info : BitVec 8) (s : State) :
    raiseError .deviceFaulted info s = respond ⟨.deviceFaulted, info, [], []⟩ s := rfl

theorem raiseError_contractViolation (viol : BitVec 8) (s : State) :
    raiseError .contractViolation viol s =
      respond ⟨.contractViolation, viol, [], []⟩
        (scramble (setFault (setPhase .faulted (setResult .contractViolation viol s)))) := rfl

/-- A recoverable error: `ERRCODE`, `ERRINFO` and the response, nothing else. -/
theorem raiseError_recoverable (code : ErrCode) (info : BitVec 8) (s : State) (h3 : code ≠ .contractViolation)
    (h6 : code ≠ .deviceFaulted) : raiseError code info s = respond ⟨code, info, [], []⟩ (setResult code info s) := by
  cases code <;> simp_all [raiseError]

/-! ### The checks (60_exceptions.md R237) -/

theorem unlessFaulted_faulted (body : State → State) (s : State) (h : s.fault = true) :
    unlessFaulted body s = raiseError .deviceFaulted 0 s := by
  simp [unlessFaulted, h]

theorem unlessFaulted_ok (body : State → State) (s : State) (h : s.fault = false) : unlessFaulted body s = body s := by
  simp [unlessFaulted, h]

theorem inPhase_faulted (p : Phase) (body : State → State) (s : State) (h : s.fault = true) :
    inPhase p body s = raiseError .deviceFaulted 0 s :=
  unlessFaulted_faulted _ s h

theorem inPhase_wrong (p : Phase) (body : State → State) (s : State) (h : s.fault = false) (hp : s.phase ≠ p) :
    inPhase p body s = raiseError .phaseError (phaseInfo s.phase) s := by
  simp [inPhase, unlessFaulted, h, hp]

theorem inPhase_ok (p : Phase) (body : State → State) (s : State) (h : s.fault = false) (hp : s.phase = p) :
    inPhase p body s = body s := by
  simp [inPhase, unlessFaulted, h, hp]

theorem unlessViol_zero (body : State → State) (s : State) : unlessViol 0 body s = body s := by simp [unlessViol]

theorem unlessViol_bad (viol : BitVec 8) (body : State → State) (s : State) (h : viol ≠ 0) :
    unlessViol viol body s = raiseError .contractViolation viol s :=
  if_neg h

/-- The three things a command with a phase can do. -/
theorem inPhase_cases (p : Phase) (body : State → State) (s : State) :
    (s.fault = true ∧ inPhase p body s = raiseError .deviceFaulted 0 s) ∨
    (s.fault = false ∧ s.phase ≠ p ∧ inPhase p body s = raiseError .phaseError (phaseInfo s.phase) s) ∨
    (s.fault = false ∧ s.phase = p ∧ inPhase p body s = body s) := by
  cases hf : s.fault
  · by_cases hp : s.phase = p
    · exact .inr (.inr ⟨rfl, hp, inPhase_ok p body s hf hp⟩)
    · exact .inr (.inl ⟨rfl, hp, inPhase_wrong p body s hf hp⟩)
  · exact .inl ⟨rfl, inPhase_faulted p body s hf⟩

/-! ### ITERATE (40_engine.md R111) -/

/-- In phase RAW with no list violation, ITERATE runs its steps and succeeds. -/
theorem iterate_runs (P O K : Bool) (nk count : Nat) (s : State) (hf : s.fault = false) (hp : s.phase = .raw)
    (hv : iterViol P K nk count s.din = 0) :
    iterate P O K nk count s =
      succeed (runOf O (iterInputs P K nk count s.din) s).2 []
        (setEng (runOf O (iterInputs P K nk count s.din) s).1 s) := by
  rw [iterate, inPhase_ok _ _ _ hf hp, hv, unlessViol_zero]

/-- In phase RAW with a list violation, ITERATE is the fatal fault. -/
theorem iterate_violates (P O K : Bool) (nk count : Nat) (s : State) (hf : s.fault = false) (hp : s.phase = .raw)
    (hv : iterViol P K nk count s.din ≠ 0) :
    iterate P O K nk count s = raiseError .contractViolation (iterViol P K nk count s.din) s := by
  rw [iterate, inPhase_ok _ _ _ hf hp, unlessViol_bad _ _ _ hv]

end Sys2Proof.Machine
end

