-- ==== Sys2Proof/Laws/Exec.lean ====
section
/-! SUPPORT. What a command can do to the state, and what a step can do, said once. -/

namespace Sys2Proof.Machine

/-- What a command leaves: a refusal, a recoverable error, the fatal fault, or success (60_exceptions.md R237). -/
def Left (s t : State) : Prop :=
  (s.fault = true ∧ t = raiseError .deviceFaulted 0 s) ∨
  (s.fault = false ∧ ∃ code info, code ≠ .ok ∧ code ≠ .contractViolation ∧ code ≠ .deviceFaulted ∧
    t = respond ⟨code, info, [], []⟩ (setResult code info s)) ∨
  (s.fault = false ∧ ∃ viol, viol ≠ 0 ∧ t = raiseError .contractViolation viol s) ∨
  (s.fault = false ∧ ∃ e p outw outb, p ≠ .faulted ∧ t = succeed outw outb (setPhase p (setEng e s)))

theorem left_recoverable (code : ErrCode) (info : BitVec 8) (s : State) (hf : s.fault = false) (h0 : code ≠ .ok)
    (h3 : code ≠ .contractViolation) (h6 : code ≠ .deviceFaulted) : Left s (raiseError code info s) :=
  .inr (.inl ⟨hf, code, info, h0, h3, h6, raiseError_recoverable code info s h3 h6⟩)

theorem left_succeed (e : Engine) (p : Phase) (outw : List Block) (outb : List Byte) (s : State) (hf : s.fault = false)
    (hp : p ≠ .faulted) : Left s (succeed outw outb (setPhase p (setEng e s))) :=
  .inr (.inr (.inr ⟨hf, e, p, outw, outb, hp, rfl⟩))

/-- Success that keeps the phase. -/
theorem left_succeed_same (e : Engine) (p : Phase) (outw : List Block) (outb : List Byte) (s : State)
    (hf : s.fault = false) (hs : s.phase = p) (hp : p ≠ .faulted) : Left s (succeed outw outb (setEng e s)) := by
  subst hs
  exact left_succeed e s.phase outw outb s hf hp

theorem left_unlessFaulted (body : State → State) (s : State) (h : s.fault = false → Left s (body s)) :
    Left s (unlessFaulted body s) := by
  cases hf : s.fault
  · rw [unlessFaulted_ok body s hf]
    exact h hf
  · exact .inl ⟨hf, unlessFaulted_faulted body s hf⟩

theorem left_inPhase (p : Phase) (body : State → State) (s : State)
    (h : s.fault = false → s.phase = p → Left s (body s)) : Left s (inPhase p body s) := by
  obtain ⟨hf, e⟩ | ⟨hf, -, e⟩ | ⟨hf, hp, e⟩ := inPhase_cases p body s <;> rw [e]
  · exact .inl ⟨hf, rfl⟩
  · exact left_recoverable _ _ s hf (by decide) (by decide) (by decide)
  · exact h hf hp

theorem left_unlessViol (viol : BitVec 8) (body : State → State) (s : State) (hf : s.fault = false)
    (h : Left s (body s)) : Left s (unlessViol viol body s) := by
  by_cases h0 : viol = 0
  · rw [h0, unlessViol_zero]
    exact h
  · exact .inr (.inr (.inl ⟨hf, viol, h0, unlessViol_bad viol body s h0⟩))

theorem left_iterate (P O K : Bool) (nk count : Nat) (s : State) : Left s (iterate P O K nk count s) :=
  left_inPhase _ _ s fun hf hp => left_unlessViol _ _ s hf (left_succeed_same _ .raw _ _ s hf hp (by decide))

/-- Every command answers a next state, one of the four. -/
theorem exec_left (i : Instr) (s : State) : ∃ t, exec i s = .next t ∧ Left s t := by
  cases i
  case reset => exact ⟨_, rfl, left_unlessFaulted _ s fun hf => left_succeed _ _ _ _ s hf (by decide)⟩
  case hashInit => exact ⟨_, rfl, left_unlessFaulted _ s fun hf => left_succeed _ _ _ _ s hf (by decide)⟩
  case hashBlock =>
    exact ⟨_, rfl, left_inPhase _ _ s fun hf hp => left_unlessViol _ _ s hf
      (left_succeed_same _ .hashAbsorbing _ _ s hf hp (by decide))⟩
  case hashFinal n =>
    refine ⟨_, rfl, left_inPhase _ _ s fun hf _ => ?_⟩
    split
    · exact left_unlessViol _ _ s hf (left_succeed _ .hashFinalized _ _ s hf (by decide))
    · exact left_recoverable _ _ s hf (by decide) (by decide) (by decide)
  case cipherInit ivlen klen =>
    refine ⟨_, rfl, left_unlessFaulted _ s fun hf => ?_⟩
    split
    · split
      · exact left_unlessViol _ _ s hf (left_succeed _ .cipherReady _ _ s hf (by decide))
      · exact left_recoverable _ _ s hf (by decide) (by decide) (by decide)
    · exact left_recoverable _ _ s hf (by decide) (by decide) (by decide)
  case cipherKs count =>
    exact ⟨_, rfl, left_inPhase _ _ s fun hf hp =>
      left_succeed_same _ .cipherReady _ _ s hf hp (by decide)⟩
  all_goals exact ⟨_, rfl, left_iterate _ _ _ _ _ s⟩

theorem exec_cases (i : Instr) (s t : State) (h : exec i s = .next t) : Left s t := by
  obtain ⟨u, hu, hl⟩ := exec_left i s
  rw [h] at hu
  cases hu
  exact hl

theorem illegalCommand_left (cw : Word) (s : State) : Left s (illegalCommand cw s) :=
  left_unlessFaulted _ s fun hf => left_recoverable _ _ s hf (by decide) (by decide) (by decide)

/-- The six things a step can be. -/
theorem step_cases (s t : State) (h : step s = .next t) :
    (s.inbox = [] ∧ t = s) ∨
    (∃ rest, s.inbox = .hardReset :: rest ∧ t = hardReset (setInbox rest s)) ∨
    (∃ num rest, s.inbox = .readReg num :: rest ∧ t = readReg num (setInbox rest s)) ∨
    (∃ num v rest, s.inbox = .writeReg num v :: rest ∧ t = writeReg num v (setInbox rest s)) ∨
    (∃ r rest i, s.inbox = .request r :: rest ∧ decode r.cw = .ok i ∧
      exec i (setDin r.ports (setInbox rest s)) = .next t) ∨
    (∃ r rest e, s.inbox = .request r :: rest ∧ decode r.cw = .error e ∧
      t = illegalCommand r.cw (setDin r.ports (setInbox rest s))) := by
  unfold step at h
  split at h
  case h_1 hi => cases h; exact .inl ⟨hi, rfl⟩
  case h_2 rest hi => cases h; exact .inr (.inl ⟨rest, hi, rfl⟩)
  case h_3 num rest hi => cases h; exact .inr (.inr (.inl ⟨num, rest, hi, rfl⟩))
  case h_4 num v rest hi => cases h; exact .inr (.inr (.inr (.inl ⟨num, v, rest, hi, rfl⟩)))
  case h_5 r rest hi =>
    split at h
    case h_1 i hd => exact .inr (.inr (.inr (.inr (.inl ⟨r, rest, i, hi, hd, h⟩))))
    case h_2 e hd => cases h; exact .inr (.inr (.inr (.inr (.inr ⟨r, rest, e, hi, hd, rfl⟩))))

end Sys2Proof.Machine
end

