-- ==== Sys2Proof/Laws/Operands.lean ====
section
/-! SUPPORT. Byte order, list checks and step inputs. -/

namespace Sys2Proof.Machine

theorem bytesToBlock_getElem (o : WordOrder) (y : List Byte) (i : Nat) (h : i < 8) :
    (bytesToBlock o y)[i] =
      wordOfBytes o (y.getD (4 * i) 0) (y.getD (4 * i + 1) 0) (y.getD (4 * i + 2) 0) (y.getD (4 * i + 3) 0) := by
  simp [bytesToBlock]

@[simp] theorem bytesOfWord_length (o : WordOrder) (w : Word) : (bytesOfWord o w).length = 4 := by cases o <;> rfl

@[simp] theorem blockToBytes_length (o : WordOrder) (w : Block) : (blockToBytes o w).length = 32 := by
  simp [blockToBytes, List.finRange_succ]

@[simp] theorem iterInputs_length (P K : Bool) (nk count : Nat) (d : Ports) :
    (iterInputs P K nk count d).length = count := by
  simp [iterInputs]

@[simp] theorem emptyInputs_length (m : Nat) : (emptyInputs m).length = m := by simp [emptyInputs]

theorem emptyInputs_add (m n : Nat) : emptyInputs (m + n) = emptyInputs m ++ emptyInputs n := by
  simp only [emptyInputs, List.replicate_append_replicate]

/-- A command with no push and no key runs blank inputs. -/
theorem iterInputs_empty (nk count : Nat) (d : Ports) : iterInputs false false nk count d = emptyInputs count := by
  simp [iterInputs, emptyInputs, List.map_const']

theorem listBad_wanted {α : Type} (n : Nat) (l : List α) : listBad true n (some l) = (l.length != n) := rfl

theorem listBad_unwanted {α : Type} (n : Nat) (l : Option (List α)) : listBad false n l = l.isSome := rfl

end Sys2Proof.Machine
end

