-- ==== Sys2Proof/Laws/PerInstr.lean ====
section
/-! SUPPORT. A law of every command as text: its word matches its row of the opcode table. -/

namespace Sys2Proof.Laws.TableRow

/-- The row's `mask` in spec/opcode_table.json. -/
def mask : Instr → Word
  | .reset => 0xFFFFFFFF
  | .iter _ => 0xFFFF0000
  | .iterP _ => 0xFFFF0000
  | .iterO _ => 0xFFFF0000
  | .iterPO _ => 0xFFFF0000
  | .iterK _ _ => 0xFF000000
  | .iterPK _ _ => 0xFF000000
  | .iterKO _ _ => 0xFF000000
  | .iterPKO _ _ => 0xFF000000
  | .hashInit => 0xFFFFFFFF
  | .hashBlock => 0xFFFFFFFF
  | .hashFinal _ => 0xFFFF0000
  | .cipherInit _ _ => 0xFF000000
  | .cipherKs _ => 0xFFFF0000

/-- The row's `match` in spec/opcode_table.json. -/
def pattern : Instr → Word
  | .reset => 0x10000000
  | .iter _ => 0x20000000
  | .iterP _ => 0x22000000
  | .iterO _ => 0x24000000
  | .iterPO _ => 0x26000000
  | .iterK _ _ => 0x28000000
  | .iterPK _ _ => 0x2A000000
  | .iterKO _ _ => 0x2C000000
  | .iterPKO _ _ => 0x2E000000
  | .hashInit => 0x30000000
  | .hashBlock => 0x40000000
  | .hashFinal _ => 0x50000000
  | .cipherInit _ _ => 0x60000000
  | .cipherKs _ => 0x70000000

/-- The command's word has the fixed bits of its row (30_encoding.md R84). -/
def Statement (i : Instr) : Prop := encode i &&& mask i = pattern i

/-- Every bit of 0xFF is set. -/
theorem ones_getLsbD (k : Nat) (h : k < 8) : BitVec.getLsbD (0xFF : BitVec 8) k = true := by
  interval_cases k <;> rfl

/-- Masking a word of which the top byte is fixed and the rest is not. -/
theorem mask_fields (top arg2 : BitVec 8) (arg1 : BitVec 16) :
    mkWord top arg2 arg1 &&& 0xFF000000 = mkWord top 0 0 := by
  have h : (0xFF000000 : Word) = mkWord 0xFF 0 0 := by decide
  rw [h]
  apply BitVec.eq_of_getLsbD_eq
  intro j hj
  rw [BitVec.getLsbD_and, mkWord_getLsbD, mkWord_getLsbD, mkWord_getLsbD]
  split
  · simp
  · split
    · simp
    · rw [ones_getLsbD (j - 24) (by omega), Bool.and_true]

/-- Masking a word of which the top half is fixed. -/
theorem mask_half (top : BitVec 8) (arg1 : BitVec 16) : mkWord top 0 arg1 &&& 0xFFFF0000 = mkWord top 0 0 := by
  have h : (0xFFFF0000 : Word) = mkWord 0xFF 0xFF 0 := by decide
  rw [h]
  apply BitVec.eq_of_getLsbD_eq
  intro j hj
  rw [BitVec.getLsbD_and, mkWord_getLsbD, mkWord_getLsbD, mkWord_getLsbD]
  split
  · simp
  · split
    · simp
    · rw [ones_getLsbD (j - 24) (by omega), Bool.and_true]

theorem reset : Statement .reset := by unfold Statement; decide

theorem iter (count : BitVec 16) : Statement (.iter count) := mask_half 0x20 count

theorem iterP (count : BitVec 16) : Statement (.iterP count) := mask_half 0x22 count

theorem iterO (count : BitVec 16) : Statement (.iterO count) := mask_half 0x24 count

theorem iterPO (count : BitVec 16) : Statement (.iterPO count) := mask_half 0x26 count

theorem iterK (nk : BitVec 8) (count : BitVec 16) : Statement (.iterK nk count) := mask_fields 0x28 nk count

theorem iterPK (nk : BitVec 8) (count : BitVec 16) : Statement (.iterPK nk count) := mask_fields 0x2A nk count

theorem iterKO (nk : BitVec 8) (count : BitVec 16) : Statement (.iterKO nk count) := mask_fields 0x2C nk count

theorem iterPKO (nk : BitVec 8) (count : BitVec 16) : Statement (.iterPKO nk count) := mask_fields 0x2E nk count

theorem hashInit : Statement .hashInit := by unfold Statement; decide

theorem hashBlock : Statement .hashBlock := by unfold Statement; decide

theorem hashFinal (n : BitVec 16) : Statement (.hashFinal n) := mask_half 0x50 n

theorem cipherInit (ivlen : BitVec 8) (klen : BitVec 16) : Statement (.cipherInit ivlen klen) :=
  mask_fields 0x60 ivlen klen

theorem cipherKs (count : BitVec 16) : Statement (.cipherKs count) := mask_half 0x70 count

end Sys2Proof.Laws.TableRow
end

