-- ==== Sys2Proof/Tests/Slice0.lean ====
section
/-! SUPPORT. The model's own tests. Expected values are those of 95_test_vectors.md (the id is in each docstring) or worked out
by hand from the rule named. Then, for each statement with hypotheses, a witness that meets them. -/

namespace Sys2Proof.Tests

open Sys2Proof.Machine Sys2Proof.Safety Sys2Proof.Claims

/-! ### Helpers -/

/-- A Block from its words. -/
def blk (w0 w1 w2 w3 w4 w5 w6 w7 : Word) : Block := #v[w0, w1, w2, w3, w4, w5, w6, w7]

/-- Eight times one word. -/
def eight (w : Word) : Block := blk w w w w w w w w

/-- The push Block of T4. -/
def oneToEight : Block := blk 1 2 3 4 5 6 7 8

/-- The bytes `first, first + 1, ...`. -/
def bytesFrom (first len : Nat) : List Byte := (List.range len).map fun i => BitVec.ofNat 8 (first + i)

/-- Ports with a push list, a key list, one or two byte strings. -/
def pushPort (l : List Block) : Ports := ⟨some l, none, none, none⟩

def keyPort (l : List Block) : Ports := ⟨none, some l, none, none⟩

def bytesPort (y : List Byte) : Ports := ⟨none, none, some y, none⟩

def cipherPort (key iv : List Byte) : Ports := ⟨none, none, some key, some iv⟩

/-- The reset state in another phase. -/
def inPh (p : Phase) : State := { State.reset with phase := p }

/-- The reset state after a fatal fault with information byte 1. -/
def faulted : State := { inPh .faulted with fault := true, errcode := .contractViolation, errinfo := 1 }

/-- The state a command leaves. -/
def nextOf (o : Host.Outcome State Fault Refusal) : State :=
  match o with
  | .next t => t
  | .fault _ => State.reset
  | .refused _ => State.reset

/-- One command with its data. -/
def run1 (i : Instr) (d : Ports) (s : State) : State := nextOf (exec i (setDin d s))

/-- One step on one host event. -/
def step1 (e : HostEvent) (s : State) : State := nextOf (step (setInbox [e] s))

/-- A request. -/
def ask (cw : Word) (d : Ports) : HostEvent := .request ⟨cw, d⟩

/-- The code and the information byte of the response. -/
def answer (s : State) : Option (ErrCode × BitVec 8) := s.resp.map fun r => (r.code, r.info)

/-- The accumulator after one blank step from zero (T1). -/
def accT1 : Acc := Vector.ofFn fun i : Fin 17 => if i = 0 then 0xFFFFFFFE#32 else 0xFFFFFFFF#32

/-- The state T4 leaves. -/
def stateT4 : State :=
  { State.reset with
    eng :=
      { a := #v[0xFFFFFFFE, 0xFFFFFFFE, 0xFFFFFFFD, 0xFFFFFFFC, 0xFFFFFFFB, 0xFFFFFFFA, 0xFFFFFFF9, 0xFFFFFFF8,
          0xFFFFFFF7, 0xFFFFFFFF, 0xFFFFFFFF, 0xFFFFFFFF, 0xFFFFFFFF, 0xFFFFFFFF, 0xFFFFFFFF, 0xFFFFFFFF,
          0xFFFFFFFF]
        c := Vector.replicate 17 0xFFFFFFFF
        b := zeroHistory.set 31 oneToEight
        bstart := 31 } }

/-- The state H1 leaves. -/
def stateH1 : State :=
  { inPh .hashAbsorbing with
    eng :=
      { a := #v[0xFFFFFFFE, 0xFCFDFEFF, 0xF8F9FAFB, 0xF4F5F6F7, 0xF0F1F2F3, 0xECEDEEEF, 0xE8E9EAEB, 0xE4E5E6E7,
          0xE0E1E2E3, 0xFFFFFFFF, 0xFFFFFFFF, 0xFFFFFFFF, 0xFFFFFFFF, 0xFFFFFFFF, 0xFFFFFFFF, 0xFFFFFFFF,
          0xFFFFFFFF]
        c := Vector.replicate 17 0xFFFFFFFF
        b := zeroHistory.set 31 (blk 0x03020100 0x07060504 0x0B0A0908 0x0F0E0D0C 0x13121110 0x17161514 0x1B1A1918
          0x1F1E1D1C)
        bstart := 31 } }

/-! ### Ill-formed commands (30_encoding.md R83, R85): each check refuses one -/

theorem test_wf_iterK : (Instr.iterK 0 1).wf = false ∧ (Instr.iterK 2 1).wf = false := by decide

theorem test_wf_iterPK : (Instr.iterPK 0 1).wf = false ∧ (Instr.iterPK 2 1).wf = false := by decide

theorem test_wf_iterKO : (Instr.iterKO 0 1).wf = false ∧ (Instr.iterKO 2 1).wf = false := by decide

theorem test_wf_iterPKO : (Instr.iterPKO 0 0).wf = false ∧ (Instr.iterPKO 255 254).wf = false := by decide

/-! ### Decoding (95_test_vectors.md 2.1; R84): a word of every constructor, written out from the formats -/

/-- E1: `OPC` 1, the rest 0. -/
theorem test_decode_reset : decode 0b0001_0000_00000000_0000000000000000 = .ok .reset := by decide

/-- E4, E3, E5. -/
theorem test_decode_iter : decode 0b0010_0000_00000000_0000000000100000 = .ok (.iter 32) ∧
    decode 0x20000000 = .ok (.iter 0) ∧ decode 0x2000FFFF = .ok (.iter 65535) := by decide

/-- E6: `P` is bit 25. -/
theorem test_decode_iterP : decode 0b0010_0010_00000000_0000000000000001 = .ok (.iterP 1) := by decide

/-- E7: `O` is bit 26. -/
theorem test_decode_iterO : decode 0b0010_0100_00000000_0000000000000001 = .ok (.iterO 1) := by decide

/-- E8. -/
theorem test_decode_iterPO : decode 0b0010_0110_00000000_0000000000000011 = .ok (.iterPO 3) := by decide

/-- E9: `K` is bit 27, `NK` is `ARG2`. -/
theorem test_decode_iterK : decode 0b0010_1000_00000010_0000000000000011 = .ok (.iterK 2 3) := by decide

/-- E10. -/
theorem test_decode_iterPK : decode 0b0010_1010_00000001_0000000000000001 = .ok (.iterPK 1 1) := by decide

/-- E11. -/
theorem test_decode_iterKO : decode 0b0010_1100_00000001_0000000000000001 = .ok (.iterKO 1 1) := by decide

/-- E12. -/
theorem test_decode_iterPKO : decode 0b0010_1110_11111111_0000000011111111 = .ok (.iterPKO 255 255) := by decide

/-- E18. -/
theorem test_decode_hashInit : decode 0b0011_0000_00000000_0000000000000000 = .ok .hashInit := by decide

/-- E20. -/
theorem test_decode_hashBlock : decode 0b0100_0000_00000000_0000000000000000 = .ok .hashBlock := by decide

/-- E24: 300 is a legal word. -/
theorem test_decode_hashFinal : decode 0b0101_0000_00000000_0000000100101100 = .ok (.hashFinal 300) := by decide

/-- E26: `ivlen` is `ARG2`, `klen` is `ARG1`. -/
theorem test_decode_cipherInit : decode 0b0110_0000_00110000_0000000000100000 = .ok (.cipherInit 48 32) := by decide

/-- E29. -/
theorem test_decode_cipherKs : decode 0b0111_0000_00000000_0000000000000010 = .ok (.cipherKs 2) := by decide

/-- E31 to E33: reserved opcodes. -/
theorem test_decode_reserved_opcode : decode 0x00000000 = .error .reservedOpcode ∧
    decode 0x80000000 = .error .reservedOpcode ∧ decode 0xFFFFFFFF = .error .reservedOpcode := by decide

/-- E2, E16, E17, E19, E21, E25, E28, E30: must-be-zero bits. -/
theorem test_decode_reserved_bits : decode 0x10000001 = .error .reservedBits ∧
    decode 0x20010001 = .error .reservedBits ∧ decode 0x21000001 = .error .reservedBits ∧
    decode 0x32000000 = .error .reservedBits ∧ decode 0x40000020 = .error .reservedBits ∧
    decode 0x50010020 = .error .reservedBits ∧ decode 0x68200020 = .error .reservedBits ∧
    decode 0x70010002 = .error .reservedBits := by decide

/-- E13 to E15: `1 <= NK <= COUNT`. -/
theorem test_decode_key_count : decode 0x28000001 = .error .badKeyCount ∧
    decode 0x28020001 = .error .badKeyCount ∧ decode 0x28010000 = .error .badKeyCount := by decide

/-- The names of section 5 of 30_encoding.md: the suffix in the order P, K, O. -/
theorem test_mnemonics : mnemonicOf (.iterPKO 1 1) = "ITER.PKO" ∧ mnemonicOf (.iterPO 1) = "ITER.PO" ∧
    mnemonicOf (.iterKO 1 1) = "ITER.KO" := by decide

/-! ### Byte order (95_test_vectors.md 2.2) -/

/-- Y3 and Y4. -/
theorem test_bytes_to_block :
    bytesToBlock .le (bytesFrom 0 32) = blk 0x03020100 0x07060504 0x0B0A0908 0x0F0E0D0C 0x13121110 0x17161514
      0x1B1A1918 0x1F1E1D1C ∧
    bytesToBlock .be (bytesFrom 0 32) = blk 0x00010203 0x04050607 0x08090A0B 0x0C0D0E0F 0x10111213 0x14151617
      0x18191A1B 0x1C1D1E1F := by decide

/-- The Block of Y3: LE gives the bytes back, BE reverses each word and moves none. -/
theorem test_block_to_bytes :
    blockToBytes .le (bytesToBlock .le (bytesFrom 0 32)) = bytesFrom 0 32 ∧
    (blockToBytes .be (bytesToBlock .le (bytesFrom 0 32))).take 8 = [3, 2, 1, 0, 7, 6, 5, 4] := by decide

/-- K3: a 33-byte key, and the same key with a zero byte. -/
theorem test_key_blocks :
    keyBlocks .le (bytesFrom 0 33) = [bytesToBlock .le (bytesFrom 0 32), blk 0x20 0 0 0 0 0 0 0] ∧
    keyBlocks .be (bytesFrom 0 33) = [bytesToBlock .be (bytesFrom 0 32), blk 0x20000000 0 0 0 0 0 0 0] ∧
    keyBlocks .le (bytesFrom 0 33 ++ [0]) = keyBlocks .le (bytesFrom 0 33) ∧
    (keyBlocks .le (bytesFrom 0 32)).length = 1 := by decide

/-! ### The passes (95_test_vectors.md 2.4) -/

/-- `A[i] = 0x01010101 * (i+1)`. -/
def patterned : Acc := Vector.ofFn fun i : Fin 17 => BitVec.ofNat 32 (0x01010101 * (i.val + 1))

theorem test_gamma : gammaPass patterned =
    #v[0xFFFFFFFF, 0xF9F9F9F9, 0xFDFDFDFD, 0xF9F9F9F9, 0xFBFBFBFB, 0xF1F1F1F1, 0xF9F9F9F9, 0xF5F5F5F5, 0xF7F7F7F7,
      0xF1F1F1F1, 0xF5F5F5F5, 0xF1F1F1F1, 0xF3F3F3F3, 0xE1E1E1E1, 0xF1F1F1F1, 0xEFEFEFEF, 0xECECECEC] := by decide

theorem test_pi : piPass (gammaPass patterned) =
    #v[0xFFFFFFFF, 0xEBEBEBEB, 0x8F8F8F8F, 0xFEFEFEFE, 0xC7C7C7C7, 0xFCFCFCFC, 0xFEFEFEFE, 0xFEFEFEFE, 0x1F1F1F1F,
      0x7E7E7E7E, 0xFEFEFEFE, 0xC7C7C7C7, 0x3B3B3B3B, 0xCFCFCFCF, 0xC3C3C3C3, 0xF9F9F9F9, 0xF5F5F5F5] := by decide

/-- θ and σ with `L = 1 .. 8` and `H[16] = A0 .. A7`. -/
theorem test_theta_sigma :
    sigmaPass (thetaPass (piPass (gammaPass patterned)))
      (zeroHistory.set 16 (blk 0xA0 0xA1 0xA2 0xA3 0xA4 0xA5 0xA6 0xA7)) (some oneToEight) =
    #v[0xD3D3D3D2, 0x98989899, 0x8F8F8F8D, 0xC7C7C7C4, 0x24242420, 0x7C7C7C79, 0xFEFEFEF8, 0x26262621, 0x5A5A5A52,
      0x4F4F4FEF, 0xFAFAFA5B, 0x050505A7, 0x010101A2, 0xF3F3F357, 0xD1D1D174, 0x83838325, 0xF4F4F453] := by decide

/-- λ: `H'[25]` takes lane `i` from lane `i + 2` of the evicted stage. -/
theorem test_lambda :
    (lambdaPass zeroAcc ((zeroHistory.set 24 (blk 0xA0 0xA1 0xA2 0xA3 0xA4 0xA5 0xA6 0xA7)).set 31 oneToEight)
      none)[25] = blk 0xA3 0xA5 0xA7 0xA5 0xA3 0xAD 0xA7 0xA5 := by decide

/-! ### The engine commands (95_test_vectors.md 2.5) -/

/-- T0: RESET. -/
theorem test_reset : (run1 .reset noPorts stateH1).eng = Engine.zero ∧
    statusReg (run1 .reset noPorts stateH1) = 0 := by decide

/-- F2: RESET does not clear FAULT. -/
theorem test_reset_faulted : answer (run1 .reset noPorts faulted) = some (.deviceFaulted, 0) ∧
    statusReg (run1 .reset noPorts faulted) = 0x0000013F := by decide

/-- T2: two blank steps. -/
theorem test_iter : (run1 (.iter 2) noPorts State.reset).eng.a =
      #v[0, 0, 0, 0, 0, 0, 0, 0, 0x00004000, 0, 0, 0x00004000, 0x00004000, 1, 0, 0, 1] ∧
    (run1 (.iter 2) noPorts State.reset).eng.b = zeroHistory.set 30 (eight 0xFFFFFFFF) ∧
    (run1 (.iter 2) noPorts State.reset).eng.bstart = 30 := by decide

/-- T1 and T0: one blank step, and none. -/
theorem test_iter_small : (run1 (.iter 1) noPorts State.reset).eng.a = accT1 ∧
    run1 (.iter 0) noPorts State.reset = { State.reset with resp := some ⟨.ok, 0, [], []⟩ } := by decide

/-- T4: a push. -/
theorem test_iterP : (run1 (.iterP 1) (pushPort [oneToEight]) State.reset).eng = stateT4.eng := by decide

/-- T12 and T0: too short, absent, and empty where `COUNT = 0`. -/
theorem test_iterP_lists :
    answer (run1 (.iterP 2) (pushPort [oneToEight]) State.reset) = some (.contractViolation, 1) ∧
    answer (run1 (.iterP 0) noPorts State.reset) = some (.contractViolation, 1) ∧
    answer (run1 (.iterP 0) (pushPort []) State.reset) = some (.ok, 0) := by decide

/-- T5: a pull after T4. -/
theorem test_iterO : outwOf (run1 (.iterO 1) noPorts stateT4) = [eight 0xFFFFFFFF] ∧
    (run1 (.iterO 1) noPorts stateT4).eng.a[2] = 0x01000140 ∧
    (run1 (.iterO 1) noPorts stateT4).eng.c[16] = 0 ∧
    (run1 (.iterO 1) noPorts stateT4).eng.b[30] =
      blk 0xFFFFFFFE 0xFFFFFFFD 0xFFFFFFFC 0xFFFFFFFB 0xFFFFFFFA 0xFFFFFFF9 0xFFFFFFF8 0xFFFFFFF7 := by decide

/-- T6: a duplex step after T4; the output does not see the Block pushed with it. -/
theorem test_iterPO :
    let p := blk 0x11111111 0x22222222 0x33333333 0x44444444 0x55555555 0x66666666 0x77777777 0x88888888
    outwOf (run1 (.iterPO 1) (pushPort [p]) stateT4) = [eight 0xFFFFFFFF] ∧
    (run1 (.iterPO 1) (pushPort [p]) stateT4).eng.a[1] = 0x1111910F ∧
    (run1 (.iterPO 1) (pushPort [p]) stateT4).eng.b[30] = p := by decide

/-- T10: three steps move the cursor to 29. -/
theorem test_iterK : (run1 (.iterK 2 3) (keyPort [zeroBlock, oneToEight]) State.reset).eng.bstart = 29 ∧
    answer (run1 (.iterK 2 3) (keyPort [zeroBlock, oneToEight]) State.reset) = some (.ok, 0) := by decide

/-- The key Block goes by the OPEN key path, the push Block beside it (R114, R160). -/
theorem test_iterK_path : (run1 (.iterK 1 1) (keyPort [oneToEight]) State.reset).eng.a =
    Config.keyAcc zeroAcc Engine.zero.logical none oneToEight := rfl

/-- T12: the key list alone wrong, and both. -/
theorem test_iterPK :
    answer (run1 (.iterPK 1 2) ⟨some [zeroBlock, zeroBlock], some [zeroBlock, zeroBlock], none, none⟩ State.reset) =
      some (.contractViolation, 2) ∧
    answer (run1 (.iterPK 1 2) ⟨some [zeroBlock], some [zeroBlock, zeroBlock], none, none⟩ State.reset) =
      some (.contractViolation, 3) := by decide

/-- T11: the tap reads the state before the step. -/
theorem test_iterKO : outwOf (run1 (.iterKO 1 1) (keyPort [oneToEight]) State.reset) = [zeroBlock] ∧
    (run1 (.iterKO 1 1) (keyPort [oneToEight]) State.reset).eng.bstart = 31 := by decide

/-- T11. -/
theorem test_iterPKO :
    outwOf (run1 (.iterPKO 1 1) ⟨some [oneToEight], some [oneToEight], none, none⟩ State.reset) = [zeroBlock] ∧
    answer (run1 (.iterPKO 1 1) (keyPort [oneToEight]) State.reset) = some (.contractViolation, 1) := by decide

/-! ### The hash controller (95_test_vectors.md 2.6) -/

/-- F11 and R180: from HASH_FINALIZED. -/
theorem test_hashInit : statusReg (run1 .hashInit noPorts { stateH1 with phase := .hashFinalized }) = 0x00000001 ∧
    (run1 .hashInit noPorts { stateH1 with phase := .hashFinalized }).eng = Engine.zero := by decide

/-- H1. -/
theorem test_hashBlock : (run1 .hashBlock (bytesPort (bytesFrom 0 32)) (inPh .hashAbsorbing)).eng = stateH1.eng := by
  decide

/-- H8: 33 bytes; and the wrong phase. -/
theorem test_hashBlock_errors :
    statusReg (run1 .hashBlock (bytesPort (bytesFrom 0 33)) (inPh .hashAbsorbing)) = 0x0000043F ∧
    statusReg (run1 .hashBlock noPorts State.reset) = 0x00000050 := by decide

/-- H5 and H3: five bytes of the digest, and the cursor and status after. -/
theorem test_hashFinal :
    outbOf (run1 (.hashFinal 5) (bytesPort (bytesFrom 32 32)) stateH1) = [0xAA, 0x33, 0xBB, 0x22, 0x02] ∧
    (run1 (.hashFinal 5) (bytesPort (bytesFrom 32 32)) stateH1).eng.bstart = 29 ∧
    (run1 (.hashFinal 5) (bytesPort (bytesFrom 32 32)) stateH1).eng.a[16] = 0x189C0247 ∧
    statusReg (run1 (.hashFinal 5) (bytesPort (bytesFrom 32 32)) stateH1) = 0x00000002 := by decide

/-- H8: the lengths out of range, before the contract. -/
theorem test_hashFinal_errors :
    statusReg (run1 (.hashFinal 0) (bytesPort (bytesFrom 32 31)) stateH1) = 0x00000021 ∧
    statusReg (run1 (.hashFinal 33) (bytesPort (bytesFrom 32 32)) stateH1) = 0x00002121 ∧
    statusReg (run1 (.hashFinal 300) (bytesPort (bytesFrom 32 32)) stateH1) = 0x0000FF21 ∧
    (run1 (.hashFinal 300) (bytesPort (bytesFrom 32 32)) stateH1).eng = stateH1.eng := by decide

/-! ### The cipher controller (95_test_vectors.md 2.7) -/

/-- K1: four steps, with `N_CIPHER_BLANK = 1`. -/
theorem test_cipherInit :
    (run1 (.cipherInit 48 32) (cipherPort (bytesFrom 0 32) (bytesFrom 0 48)) State.reset).eng.bstart = 28 ∧
    statusReg (run1 (.cipherInit 48 32) (cipherPort (bytesFrom 0 32) (bytesFrom 0 48)) State.reset) = 0x00000003 := by
  decide

/-- K4: the key length before the IV length, the lengths before the contract. -/
theorem test_cipherInit_errors :
    statusReg (run1 (.cipherInit 31 31) noPorts State.reset) = 0x00000010 ∧
    statusReg (run1 (.cipherInit 32 65) noPorts State.reset) = 0x00000010 ∧
    statusReg (run1 (.cipherInit 65 32) noPorts State.reset) = 0x00000110 ∧
    answer (run1 (.cipherInit 32 32) (cipherPort (bytesFrom 0 33) (bytesFrom 0 31)) State.reset) =
      some (.contractViolation, 0x0C) := by decide

/-- K5: the keystream is words 9 to 16 of the accumulator, little-endian. -/
theorem test_cipherKs :
    let s : State :=
      { inPh .cipherReady with
        eng :=
          { Engine.zero with
            a := #v[0, 0, 0, 0, 0, 0, 0, 0, 0, 0x00000050, 0x08800000, 0x00800000, 0x03000000, 0x08000000, 0x08000000,
              0x0300001E, 0x03000000] } }
    outbOf (run1 (.cipherKs 1) noPorts s) =
      [0x50, 0, 0, 0, 0, 0, 0x80, 0x08, 0, 0, 0x80, 0, 0, 0, 0, 3, 0, 0, 0, 8, 0, 0, 0, 8, 0x1E, 0, 0, 3, 0, 0, 0,
        3] := by
  decide

/-- K5: no Blocks; and the wrong phase. -/
theorem test_cipherKs_small : outbOf (run1 (.cipherKs 0) noPorts (inPh .cipherReady)) = [] ∧
    answer (run1 (.cipherKs 1) noPorts State.reset) = some (.phaseError, 0) := by decide

/-! ### Errors, priority, the fault, the registers (95_test_vectors.md 2.8) -/

/-- F1, F3, F4. -/
theorem test_fault :
    statusReg (step1 (ask 0x20000001 (pushPort [zeroBlock])) State.reset) = 0x0000013F ∧
    answer (step1 (ask 0x00000000 noPorts) faulted) = some (.deviceFaulted, 0) ∧
    statusReg (step1 .hardReset faulted) = 0 ∧ (step1 .hardReset faulted).resp = none := by decide

/-- F5, F6, F7, F8. -/
theorem test_priority :
    statusReg (step1 (ask 0x21000001 (pushPort [zeroBlock])) stateH1) = 0x00002141 ∧
    statusReg (step1 (ask 0x20000001 (pushPort [zeroBlock])) stateH1) = 0x00000151 ∧
    statusReg (step1 (ask 0x50000000 (bytesPort (bytesFrom 0 31))) stateH1) = 0x00000021 ∧
    statusReg (step1 (ask 0x50000020 (bytesPort (bytesFrom 0 31))) stateH1) = 0x0000043F := by decide

/-- F10 and E33. -/
theorem test_status :
    statusReg (step1 (ask 0x40000000 noPorts) (inPh .cipherReady)) = 0x00000353 ∧
    statusReg (step1 (ask 0xFFFFFFFF noPorts) State.reset) = 0x0000FF40 := by decide

/-- R29: CONFIG and STATUS, another number, a write. -/
theorem test_registers :
    (step1 (.readReg 0) { State.reset with order := .be, nblank := 32 }).rdata = some 0x00002001 ∧
    (step1 (.readReg 1) faulted).rdata = some 0x0000013F ∧ (step1 (.readReg 2) faulted).rdata = some 0 ∧
    step1 (.writeReg 0 0xFFFFFFFF) faulted = { faulted with rdata := some 0 } := by decide

/-- A word placed with withFetchWord runs in the next step, on 32 and on fewer bits. -/
theorem test_fetch : answer (nextOf (step (State.reset.withFetchWord 32 0x30000000))) = some (.ok, 0) ∧
    (nextOf (step (State.reset.withFetchWord 32 0x30000000))).phase = .hashAbsorbing ∧
    decodeTableWord 32 0x28010001 = some (.iterK 1 1) ∧ decodeTableWord 32 0 = none := by decide

/-! ### Witnesses: each statement's hypotheses can be met -/

theorem witness_DecodeOfEncode : (Instr.iterK 1 1).wf = true ∧ (Instr.iterPKO 255 255).wf = true ∧
    (Instr.hashFinal 0xFFFF).wf = true := by decide

theorem witness_EncodeOfDecode : decode 0x28010001 = .ok (.iterK 1 1) := by decide

/-- Bit 24 set. -/
theorem illegal_word : ¬LegalWord 0x21000001 := by
  unfold LegalWord bitsAt
  decide

theorem witness_IllegalWords : (setInbox [ask 0x21000001 noPorts] State.reset).inbox = [ask 0x21000001 noPorts] ∧
    (setInbox [ask 0x21000001 noPorts] State.reset).fault = false ∧ ¬LegalWord 0x21000001 :=
  ⟨rfl, rfl, illegal_word⟩

theorem witness_StepRuns : (setInbox [ask 0x20000001 noPorts] State.reset).inbox = [ask 0x20000001 noPorts] ∧
    decode 0x20000001 = .ok (.iter 1) := by decide

theorem witness_EveryStep : State.reset.inbox = [] := by decide

theorem witness_HardReset : (setInbox [.hardReset] faulted).inbox = [.hardReset] ∧ State.reset.fault = false ∧
    faulted.fault = true := by decide

theorem witness_ResetZeroes : exec .reset State.reset = .next (run1 .reset noPorts State.reset) ∧
    (setInbox [ask 0x10000001 noPorts] State.reset).inbox = [ask 0x10000001 noPorts] ∧
    bitsAt 0x10000001 28 4 = 1 ∧ bitsAt 0x10000001 0 28 ≠ 0 := ⟨rfl, rfl, by decide, by decide⟩

theorem witness_HashInit : (setInbox [ask 0x32000000 noPorts] State.reset).inbox = [ask 0x32000000 noPorts] ∧
    bitsAt 0x32000000 28 4 = 3 ∧ bitsAt 0x32000000 0 28 ≠ 0 ∧ (inPh .cipherReady).fault = false ∧
    faulted.fault = true := ⟨rfl, by decide, by decide, rfl, rfl⟩

/-- A list of the wanted length fits; no list fits where none is wanted. -/
theorem fits_some {α : Type} (n : Nat) (l : List α) (h : l.length = n) : Fits true n (some l) := by
  simp [Fits, ListWrong, h]

theorem fits_none {α : Type} (n : Nat) : Fits (α := α) false n none := by simp [Fits, ListWrong]

/-- No steps, one step, key and push lists. -/
theorem witness_IterateRuns : State.reset.fault = false ∧ State.reset.phase = .raw ∧
    Fits false 0 State.reset.din.push ∧ Fits false 0 State.reset.din.key ∧
    Fits true 1 (setDin (pushPort [oneToEight]) State.reset).din.push ∧
    Fits true 1 (setDin (keyPort [oneToEight]) State.reset).din.key ∧ 1 ≤ (1 : BitVec 8).toNat ∧
    (1 : BitVec 8).toNat ≤ (1 : BitVec 16).toNat :=
  ⟨rfl, rfl, fits_none _, fits_none _, fits_some _ _ rfl, fits_some _ _ rfl, by decide, by decide⟩

/-- The violating clause: an unexpected push list and an absent key list. -/
theorem witness_IterateViolates : IsViol 3 (ListWrong false 1 (some [oneToEight])) (ListWrong true 1
    (none : Option (List Block))) False False ∧ (3 : BitVec 8) ≠ 0 := by
  simp [IsViol, ListWrong]

theorem witness_IterateCompose : (1 : BitVec 16).toNat + (0xFFFE : BitVec 16).toNat < 65536 ∧
    Fits true 1 (some [oneToEight]) ∧ Fits true 2 (some [oneToEight, zeroBlock]) ∧
    (1 : BitVec 8).toNat = (1 : BitVec 16).toNat ∧ (1 : BitVec 8).toNat + (254 : BitVec 8).toNat < 256 ∧
    [oneToEight].length = (1 : BitVec 8).toNat :=
  ⟨by decide, fits_some _ _ rfl, fits_some _ _ rfl, by decide, by decide, rfl⟩

theorem witness_CursorMoves : (List.replicate 32 ((none, none) : StepInput)).length = 32 ∧
    State.reset.eng.bstart = 0 ∧ Fits false 5 State.reset.din.push ∧ Fits false 0 State.reset.din.key :=
  ⟨rfl, rfl, fits_none _, fits_none _⟩

theorem zero_allZero : AllZero Engine.zero := by
  unfold AllZero
  decide

theorem witness_OutputTap : 0 < (1 : BitVec 16).toNat ∧ AllZero State.reset.eng ∧
    Fits true (1 : BitVec 16).toNat (setDin (pushPort [oneToEight]) State.reset).din.push :=
  ⟨by decide, zero_allZero, fits_some _ _ rfl⟩

/-- Without and with a push Block. -/
theorem witness_ReferenceStep : State.reset.cfg = .ref ∧
    State.reset.din.push = (none : Option Block).map (fun x => [x]) ∧ State.reset.din.key = none ∧
    (setDin (pushPort [oneToEight]) State.reset).din.push = (some oneToEight).map (fun x => [x]) ∧
    (setDin (pushPort [oneToEight]) State.reset).din.key = none := by decide

/-- Two accumulators that agree on bit 0 of every word only; two Blocks that agree in lane 0. -/
theorem witness_LaneWise : (∀ i : Fin 17, zeroAcc[i].getLsbD 0 = (Vector.replicate 17 2#32 : Acc)[i].getLsbD 0) ∧
    zeroBlock[(0 : Fin 8)] = (blk 0 1 1 1 1 1 1 1)[(0 : Fin 8)] ∧
    (∀ j : Fin 32, zeroHistory[j][(0 : Fin 8)] = (Vector.replicate 32 (blk 0 1 1 1 1 1 1 1) : History)[j][(0 : Fin 8)]) ∧
    ((0 : Fin 32) ≠ 25) := by decide

/-- The clause of stage 25: stages 24 agree in lane 0 and stages 31 in lane 2. -/
theorem witness_LaneWise_25 : zeroHistory[24][(0 : Fin 8)] = (zeroHistory.set 24 (blk 0 1 1 1 1 1 1 1))[24][(0 : Fin 8)] ∧
    zeroHistory[31][(0 : Fin 8) + 2] = (zeroHistory.set 31 (blk 1 1 0 1 1 1 1 1))[31][(0 : Fin 8) + 2] := by decide

theorem witness_HistoryAccesses : (1 : Fin 8) ≠ 0 ∧ 256 ≤ 256 := by decide

theorem witness_Addressing : ({ Engine.zero with bstart := 20 } : Engine).bstart = 20 ∧ Engine.zero.bstart = 0 ∧
    (List.replicate 32 ((none, none) : StepInput)).length = 32 := by decide

theorem witness_ByteOrder : (bytesFrom 0 32).length = 32 ∧ (bytesFrom 0 4 ++ bytesFrom 9 28).length = 32 ∧
    ∀ k : Fin 4, (bytesFrom 0 32).getD (4 * 0 + k.val) 0 = (bytesFrom 0 4 ++ bytesFrom 9 28).getD (4 * 0 + k.val) 0 := by
  decide

/-- HASH_BLOCK and HASH_FINAL on a full block, with the least and the largest `n`; and the lengths outside. -/
theorem witness_Hash : (setDin (bytesPort (bytesFrom 0 32)) stateH1).fault = false ∧
    (setDin (bytesPort (bytesFrom 0 32)) stateH1).phase = .hashAbsorbing ∧
    (setDin (bytesPort (bytesFrom 0 32)) stateH1).din.bytes1 = some (bytesFrom 0 32) ∧ (bytesFrom 0 32).length = 32 ∧
    1 ≤ (1 : BitVec 16).toNat ∧ (32 : BitVec 16).toNat ≤ 32 ∧ (0 : BitVec 16).toNat = 0 ∧
    32 < (33 : BitVec 16).toNat := by decide

theorem witness_HashProcedure : State.reset.fault = false ∧ [bytesFrom 0 32, bytesFrom 32 32] ≠ [] ∧
    ∀ y ∈ [bytesFrom 0 32, bytesFrom 32 32], y.length = 32 := by decide

theorem witness_KeyBlocks : 32 ≤ (bytesFrom 0 32).length ∧ (bytesFrom 0 64).length ≤ 64 ∧
    32 < (bytesFrom 0 33).length ∧ (bytesFrom 0 63).length < 64 := by decide

/-- CIPHER_INIT at both ends of the range, and outside it. -/
theorem witness_Cipher : (setDin (cipherPort (bytesFrom 0 32) (bytesFrom 0 64)) State.reset).fault = false ∧
    (setDin (cipherPort (bytesFrom 0 32) (bytesFrom 0 64)) State.reset).din.bytes1 = some (bytesFrom 0 32) ∧
    (setDin (cipherPort (bytesFrom 0 32) (bytesFrom 0 64)) State.reset).din.bytes2 = some (bytesFrom 0 64) ∧
    32 ≤ (32 : BitVec 16).toNat ∧ (64 : BitVec 8).toNat ≤ 64 ∧ (bytesFrom 0 32).length = (32 : BitVec 16).toNat ∧
    (bytesFrom 0 64).length = (64 : BitVec 8).toNat ∧ (31 : BitVec 16).toNat < 32 ∧ 64 < (65 : BitVec 8).toNat := by
  decide

theorem witness_CipherKs : (inPh .cipherReady).fault = false ∧ (inPh .cipherReady).phase = .cipherReady := by decide

theorem witness_Prefix : State.reset.fault = false ∧ stateH1.fault = false ∧ SameStraps State.reset stateH1 ∧
    (1 : BitVec 16).toNat + (0xFFFE : BitVec 16).toNat < 65536 := by decide

/-- HASH_BLOCK is not allowed in RAW and allowed in HASH_ABSORBING. -/
theorem not_allowed_hashBlock : ¬Allowed .hashBlock .raw := fun h => absurd (h .hashAbsorbing rfl) (by decide)

theorem allowed_hashBlock : Allowed .hashBlock .hashAbsorbing := fun _ h => Option.some.inj h

theorem no_range_hashBlock (c : ErrCode) (n : BitVec 8) : ¬RangeError .hashBlock c n := by simp [RangeError]

theorem witness_PhaseTable : ¬Allowed .hashBlock State.reset.phase ∧ Allowed .hashBlock stateH1.phase ∧
    State.reset.fault = false ∧ stateH1.fault = false ∧ faulted.fault = true ∧
    (setInbox [.hardReset] faulted).inbox = [.hardReset] :=
  ⟨not_allowed_hashBlock, allowed_hashBlock, rfl, rfl, rfl, rfl⟩

/-- An illegal word in and out of FAULTED, and a word that decodes. -/
theorem witness_Priority : (setInbox [ask 0x21000001 noPorts] faulted).inbox = [ask 0x21000001 noPorts] ∧
    (setInbox [ask 0x21000001 noPorts] faulted).fault = true ∧ ¬LegalWord 0x21000001 ∧
    (setInbox [ask 0x21000001 noPorts] State.reset).fault = false ∧ decode 0x40000000 = .ok .hashBlock :=
  ⟨rfl, rfl, illegal_word, rfl, rfl⟩

/-- HASH_BLOCK with no bytes; a fault that a request does not clear. -/
theorem witness_ContractViolation : stateH1.fault = false ∧ Allowed .hashBlock stateH1.phase ∧
    (∀ c n, ¬RangeError .hashBlock c n) ∧ ViolOf .hashBlock stateH1.din 4 ∧ (4 : BitVec 8) ≠ 0 ∧
    faulted.fault = true ∧ (∀ rest, faulted.inbox ≠ .hardReset :: rest) ∧ step faulted = .next faulted := by
  refine ⟨rfl, allowed_hashBlock, no_range_hashBlock, ?_, by decide, rfl, by simp [faulted, inPh, State.reset], rfl⟩
  simp [ViolOf, IsViol, ListWrong, stateH1, inPh, State.reset, noPorts]

/-- An illegal word, followed by another request. -/
theorem witness_Recoverable :
    let s := setInbox [ask 0x21000001 noPorts, ask 0x20000001 noPorts] State.reset
    ∃ t a, step s = .next t ∧ t.resp = some a ∧ Recoverable a.code ∧
      s.inbox = ask 0x21000001 noPorts :: [ask 0x20000001 noPorts] :=
  ⟨_, ⟨.illegalCommand, 0x21, [], []⟩, rfl, rfl, .inr (.inr (.inl rfl)), rfl⟩

theorem witness_Faulted : (setInbox [ask 0x10000000 noPorts] faulted).fault = true ∧
    (setInbox [ask 0x10000000 noPorts] faulted).inbox = [ask 0x10000000 noPorts] ∧
    (setInbox [.readReg 1] faulted).inbox = [.readReg 1] ∧ (setInbox [.hardReset] faulted).inbox = [.hardReset] ∧
    ∀ e ∈ (setInbox [ask 0x10000000 noPorts, .hardReset] faulted).inbox.take 1, e ≠ .hardReset := by decide

/-- Two faulted states with different engines and different counts of free values. -/
theorem witness_Unspecified : SameButUnspecified faulted { faulted with eng := stateH1.eng, draws := 1 } ∧
    step faulted = .next faulted ∧ Host.Core.run core 0 faulted = .next faulted :=
  ⟨⟨rfl, fun h => absurd h (by decide)⟩, rfl, rfl⟩

/-- The fault is set by one step, cleared by another. -/
theorem witness_Sticky :
    (setInbox [ask 0x20000001 (pushPort [zeroBlock])] State.reset).fault = false ∧
    (∃ t a, step (setInbox [ask 0x20000001 (pushPort [zeroBlock])] State.reset) = .next t ∧ t.fault = true ∧
      t.resp = some a ∧ a.code = .contractViolation) ∧
    (∃ t, step (setInbox [.hardReset] faulted) = .next t ∧ t.fault = false) ∧
    (faulted.fault = true ↔ faulted.phase = .faulted) :=
  ⟨rfl, ⟨_, _, rfl, rfl, rfl, rfl⟩, ⟨_, rfl, rfl⟩, by decide⟩

theorem witness_Status : (∃ t, step (setInbox [ask 0x20000001 noPorts] State.reset) = .next t) ∧
    (∃ t, step (setInbox [ask 0x20000001 noPorts] faulted) = .next t) ∧ State.reset.fault = false ∧
    faulted.fault = true :=
  ⟨⟨_, rfl⟩, ⟨_, rfl⟩, rfl, rfl⟩

/-- The last register number and the first that is none; a write. -/
theorem witness_Registers : (setInbox [.readReg 1] State.reset).inbox = [.readReg 1] ∧
    (setInbox [.readReg 2] State.reset).inbox = [.readReg 2] ∧
    (setInbox [.writeReg 0 1] State.reset).inbox = [.writeReg 0 1] := by decide

/-- Coherent states other than reset: after the fault, and after a refused length in HASH_ABSORBING. -/
theorem witness_Coherent : Coherent faulted ∧ Coherent (run1 (.hashFinal 300) noPorts stateH1) ∧
    step faulted = .next faulted := ⟨by decide, by decide, rfl⟩

theorem witness_Straps : step (setInbox [.hardReset] faulted) = .next (step1 .hardReset faulted) := rfl

theorem witness_Lengths : exec (.iterO 1) State.reset = .next (run1 (.iterO 1) noPorts State.reset) ∧
    (run1 (.iterO 1) noPorts State.reset).resp = some ⟨.ok, 0, [zeroBlock], []⟩ := ⟨rfl, by decide⟩

/-- The same logical history under two cursors. -/
theorem witness_Slots : SameView State.reset { State.reset with eng := { Engine.zero with bstart := 5 } } ∧
    step State.reset = .next State.reset := by
  refine ⟨⟨rfl, rfl, rfl, ?_⟩, rfl⟩
  decide

/-- A call of no steps; a call longer than one command takes, with a key Block. -/
theorem witness_SplitCalls : State.reset.fault = false ∧ State.reset.phase = .raw ∧
    (∀ l : List Block, some l = some [] → l.length = 0) ∧
    (∀ l : List Block, some l = some [oneToEight] → 1 ≤ l.length ∧ l.length ≤ 65536) := by
  refine ⟨rfl, rfl, ?_, ?_⟩ <;> · intro l h; cases h; decide

theorem witness_Crypt : State.reset.fault = false ∧ stateH1.fault = false ∧ SameStraps State.reset stateH1 ∧
    32 ≤ (bytesFrom 0 32).length ∧ (bytesFrom 0 64).length ≤ 64 ∧ (bytesFrom 0 40).length ≤ 32 * 65535 := by decide

end Sys2Proof.Tests
end

/-! ### The status fields: what reset, a command and a step leave in them (10_state.md R27, R28, R31) -/

namespace Sys2Proof.StatusProofs

open Sys2Proof.Machine Sys2Proof.Claims

/-! ### Rules of the reset operations -/

/-- `CONFIG` reads the two straps and nothing else (R29). -/
theorem configReg_congr {s t : State} (ho : t.order = s.order) (hn : t.nblank = s.nblank) :
    configReg t = configReg s := by
  rw [configReg, configReg, ho, hn]

theorem allZero_engineZero : AllZero Engine.zero := by
  unfold AllZero
  decide

theorem raiseError_refuses (s : State) : raiseError .deviceFaulted 0 s = refusedState s := rfl

theorem step_of_hardReset {s : State} {rest : List HostEvent} (h : s.inbox = .hardReset :: rest) :
    step s = .next (hardReset (setInbox rest s)) := by
  rw [step, h]

theorem exec_reset_of_fault {s : State} (h : s.fault = true) : exec .reset s = .next (refusedState s) := by
  rw [exec, execReset, unlessFaulted_faulted _ s h, raiseError_refuses]

theorem exec_reset_of_not_fault {s : State} (h : s.fault = false) :
    exec .reset s = .next (succeed [] [] (setPhase .raw (zeroEngine s))) := by
  rw [exec, execReset, unlessFaulted_ok _ s h]

/-- Settles O8: the reset state, hard reset and RESET each have `Engine.zero` and the stated status fields by the
rules of `hardReset`, `zeroEngine` and `succeed`. -/
theorem hardResetAndResetLeaveTheStatedValues : Obligations.HardResetAndResetLeaveTheStatedValues := by
  refine ⟨⟨allZero_engineZero, rfl, rfl, rfl, rfl⟩, fun s rest h => ?_, fun s h => ?_, fun s h => ?_⟩
  · exact ⟨_, step_of_hardReset h, allZero_engineZero, rfl, rfl, rfl, rfl, configReg_congr rfl rfl⟩
  · exact ⟨_, exec_reset_of_not_fault h, allZero_engineZero, rfl, rfl, rfl, rfl, configReg_congr rfl rfl⟩
  · exact exec_reset_of_fault h

/-! ### What a step can do to the status fields -/

/-- A request ends in one of the four ways a command can end, whether or not its word decodes. -/
theorem left_of_step_request {s t : State} {r : Request} {rest : List HostEvent}
    (hi : s.inbox = .request r :: rest) (h : step s = .next t) : Left (setDin r.ports (setInbox rest s)) t := by
  rw [step, hi] at h
  dsimp only at h
  split at h
  · exact exec_cases _ _ _ h
  · cases h
    exact illegalCommand_left _ _

/-- A step takes a request, takes a hard reset, or leaves `FAULT` and `PHASE` alone. -/
theorem step_request_or_hardReset_or_keeps {s t : State} (h : step s = .next t) :
    (∃ r rest, s.inbox = .request r :: rest) ∨
    (∃ rest, s.inbox = .hardReset :: rest ∧ t = hardReset (setInbox rest s)) ∨
    (t.fault = s.fault ∧ t.phase = s.phase) := by
  obtain ⟨-, rfl⟩ | hr | ⟨num, rest, -, rfl⟩ | ⟨num, v, rest, -, rfl⟩ | ⟨r, rest, i, hi, -⟩ |
    ⟨r, rest, e, hi, -⟩ := step_cases s t h
  · exact .inr (.inr ⟨rfl, rfl⟩)
  · exact .inr (.inl hr)
  · exact .inr (.inr ⟨rfl, rfl⟩)
  · exact .inr (.inr ⟨rfl, rfl⟩)
  · exact .inl ⟨r, rest, hi⟩
  · exact .inl ⟨r, rest, hi⟩

/-- How a request, from the state before it, leaves the status fields: refused with the status frozen; violated
(R234); or answered otherwise, with `FAULT` still 0 and `PHASE` the old one or one that is not FAULTED. -/
theorem status_of_step_request {s t : State} {r : Request} {rest : List HostEvent}
    (hi : s.inbox = .request r :: rest) (h : step s = .next t) :
    (s.fault = true ∧ t.fault = true ∧ t.phase = s.phase ∧ t.errcode = s.errcode ∧ t.errinfo = s.errinfo) ∨
    (s.fault = false ∧ t.fault = true ∧ t.phase = .faulted ∧ ∃ viol, t.errcode = .contractViolation ∧
      t.errinfo = viol ∧ t.resp = some ⟨.contractViolation, viol, [], []⟩) ∨
    (s.fault = false ∧ t.fault = false ∧ (t.phase = s.phase ∨ t.phase ≠ .faulted) ∧ ∃ a, t.resp = some a ∧
      t.errcode = a.code ∧ t.errinfo = a.info ∧ a.code ≠ .contractViolation ∧ (a.code = .ok → a.info = 0)) := by
  obtain ⟨hf, rfl⟩ | ⟨hf, code, info, h0, h3, -, rfl⟩ | ⟨hf, viol, -, rfl⟩ | ⟨hf, e, p, outw, outb, hp, rfl⟩ :=
    left_of_step_request hi h
  · exact .inl ⟨hf, hf, rfl, rfl, rfl⟩
  · exact .inr (.inr ⟨hf, hf, .inl rfl, _, rfl, rfl, rfl, h3, fun h => absurd h h0⟩)
  · exact .inr (.inl ⟨hf, rfl, rfl, viol, rfl, rfl, rfl⟩)
  · exact .inr (.inr ⟨hf, hf, .inr hp, _, rfl, rfl, rfl, by simp, fun _ => rfl⟩)

/-- Settles O39: by the three ways a request leaves the status fields. -/
theorem statusHoldsTheLastResult : Obligations.StatusHoldsTheLastResult := by
  intro s t r rest hi h
  obtain ⟨hf, -, -, hc, hn⟩ | ⟨hf, -, -, viol, hc, hn, ha⟩ | ⟨hf, -, -, a, ha, hc, hn, -, hok⟩ :=
    status_of_step_request hi h
  · exact ⟨fun hs => by simp [hf] at hs, fun _ => ⟨hc, hn⟩⟩
  · exact ⟨fun _ => ⟨_, ha, hc, hn, fun h => by cases h⟩, fun hs => by simp [hf] at hs⟩
  · exact ⟨fun _ => ⟨a, ha, hc, hn, fun h => hn.trans (hok h)⟩, fun hs => by simp [hf] at hs⟩

/-! ### The fault flag -/

/-- A request that answers CONTRACT_VIOLATION from `FAULT = 0` sets `FAULT`. -/
theorem fault_of_violation_answered {s t : State} {r : Request} {rest : List HostEvent} {a : Response}
    (hi : s.inbox = .request r :: rest) (h : step s = .next t) (hf : s.fault = false) (ha : t.resp = some a)
    (hc : a.code = .contractViolation) : t.fault = true := by
  obtain ⟨hs, -⟩ | ⟨-, ht, -⟩ | ⟨-, -, -, b, hb, -, -, hne, -⟩ := status_of_step_request hi h
  · simp [hf] at hs
  · exact ht
  · cases ha.symm.trans hb
    exact absurd hc hne

/-- Only a request that answers CONTRACT_VIOLATION sets `FAULT`. -/
theorem violation_answered_of_fault_set {s t : State} (h : step s = .next t) (hf : s.fault = false)
    (ht : t.fault = true) :
    ∃ r rest viol, s.inbox = .request r :: rest ∧ t.resp = some ⟨.contractViolation, viol, [], []⟩ := by
  obtain ⟨r, rest, hi⟩ | ⟨rest, -, rfl⟩ | ⟨hk, -⟩ := step_request_or_hardReset_or_keeps h
  · obtain ⟨hs, -⟩ | ⟨-, -, -, viol, -, -, ha⟩ | ⟨-, ht', -⟩ := status_of_step_request hi h
    · simp [hf] at hs
    · exact ⟨r, rest, viol, hi, ha⟩
    · simp [ht] at ht'
  · simp at ht
  · simp [hk, hf] at ht

/-- Only a hard reset clears `FAULT`. -/
theorem hardReset_of_fault_cleared {s t : State} (h : step s = .next t) (hf : s.fault = true)
    (ht : t.fault = false) : ∃ rest, s.inbox = .hardReset :: rest := by
  obtain ⟨r, rest, hi⟩ | ⟨rest, hi, -⟩ | ⟨hk, -⟩ := step_request_or_hardReset_or_keeps h
  · obtain ⟨-, ht', -⟩ | ⟨hs, -⟩ | ⟨hs, -⟩ := status_of_step_request hi h
    · simp [ht] at ht'
    · simp [hf] at hs
    · simp [hf] at hs
  · exact ⟨rest, hi⟩
  · simp [hk, hf] at ht

theorem fault_cleared_of_hardReset {s t : State} {rest : List HostEvent} (hi : s.inbox = .hardReset :: rest)
    (h : step s = .next t) : t.fault = false := by
  cases (step_of_hardReset hi).symm.trans h
  rfl

/-- A step keeps `FAULT = 1` exactly when `PHASE = FAULTED`. -/
theorem step_keeps_fault_iff_faulted {s t : State} (h : step s = .next t)
    (hs : s.fault = true ↔ s.phase = .faulted) : t.fault = true ↔ t.phase = .faulted := by
  obtain ⟨r, rest, hi⟩ | ⟨rest, -, rfl⟩ | ⟨hf, hp⟩ := step_request_or_hardReset_or_keeps h
  · obtain ⟨hf, hf', hp, -⟩ | ⟨-, hf', hp, -⟩ | ⟨hf, hf', hp | hp, -⟩ := status_of_step_request hi h
    · rw [hp, hf', ← hs, hf]
    · simp [hf', hp]
    · rw [hp, hf', ← hs, hf]
    · simp [hf', hp]
  · simp
  · rw [hf, hp, hs]

/-- Settles O38: each clause is a fact about one step, by what it took from the host. -/
theorem theFaultFlagIsSticky : Obligations.TheFaultFlagIsSticky := by
  refine ⟨rfl, by decide, fun s t h => ⟨fun r rest a hi hf ha hc => ?_, ?_, ?_, fun rest hi => ?_, ?_⟩⟩
  · exact fault_of_violation_answered hi h hf ha hc
  · exact violation_answered_of_fault_set h
  · exact hardReset_of_fault_cleared h
  · exact fault_cleared_of_hardReset hi h
  · exact step_keeps_fault_iff_faulted h

end Sys2Proof.StatusProofs

/-! ### The history buffer and byte order (20_memory.md R52, R55) -/

namespace Sys2Proof.MemoryProofs

open Sys2Proof.Machine

/-! ### Word addresses (R52) -/

theorem wordAddr_lt (s : Fin 32) (i : Fin 8) : wordAddr s.val i.val < 256 := by
  unfold wordAddr
  omega

@[simp] theorem wordAddr_div (s : Nat) (i : Fin 8) : wordAddr s i.val / 8 = s := by
  unfold wordAddr
  omega

@[simp] theorem wordAddr_mod (s : Nat) (i : Fin 8) : wordAddr s i.val % 8 = i.val := by
  unfold wordAddr
  omega

/-! ### Which accesses exist (R52) -/

theorem memReadWord_of_lt (b : History) {addr : Nat} (h : addr < 256) :
    memReadWord b addr = some b[addr / 8][addr % 8] := dif_pos h

theorem memReadWord_of_le (b : History) {addr : Nat} (h : 256 ≤ addr) : memReadWord b addr = none :=
  dif_neg h.not_gt

theorem memWriteWord_of_lt (b : History) {addr : Nat} (h : addr < 256) (v : Word) :
    memWriteWord b addr v = some (b.set (addr / 8) (b[addr / 8].set (addr % 8) v)) := dif_pos h

theorem memWriteWord_of_le (b : History) {addr : Nat} (h : 256 ≤ addr) (v : Word) : memWriteWord b addr v = none :=
  dif_neg h.not_gt

theorem memReadStage_of_aligned (b : History) {addr : Nat} (h : addr < 256 ∧ addr % 8 = 0) :
    memReadStage b addr = some b[addr / 8] := dif_pos h

theorem memReadStage_of_not_aligned (b : History) {addr : Nat} (h : ¬(addr < 256 ∧ addr % 8 = 0)) :
    memReadStage b addr = none := dif_neg h

theorem memWriteStage_of_aligned (b : History) {addr : Nat} (h : addr < 256 ∧ addr % 8 = 0) (S : Stage) :
    memWriteStage b addr S = some (b.set (addr / 8) S) := dif_pos h

theorem memWriteStage_of_not_aligned (b : History) {addr : Nat} (h : ¬(addr < 256 ∧ addr % 8 = 0)) (S : Stage) :
    memWriteStage b addr S = none := dif_neg h

theorem memReadWord_wordAddr (b : History) (s : Fin 32) (i : Fin 8) :
    memReadWord b (wordAddr s.val i.val) = some b[s][i] := by
  rw [memReadWord_of_lt b (wordAddr_lt s i)]
  simp

theorem wordAddr_zero_aligned (s : Fin 32) : wordAddr s.val 0 < 256 ∧ wordAddr s.val 0 % 8 = 0 :=
  ⟨wordAddr_lt s 0, wordAddr_mod s.val 0⟩

theorem not_aligned_of_ne_zero (s : Fin 32) {i : Fin 8} (h : i ≠ 0) :
    ¬(wordAddr s.val i.val < 256 ∧ wordAddr s.val i.val % 8 = 0) := by
  rintro ⟨-, h0⟩
  rw [wordAddr_mod] at h0
  exact h (Fin.ext h0)

theorem memReadStage_wordAddr (b : History) (s : Fin 32) : memReadStage b (wordAddr s.val 0) = some b[s] := by
  rw [memReadStage_of_aligned b (wordAddr_zero_aligned s)]
  simp [wordAddr]

theorem memWriteStage_wordAddr (b : History) (s : Fin 32) (S : Stage) :
    memWriteStage b (wordAddr s.val 0) S = some (b.set s.val S) := by
  rw [memWriteStage_of_aligned b (wordAddr_zero_aligned s)]
  simp [wordAddr]

/-! ### Reads after writes (R52) -/

/-- A word write changes the word it names and no other, whatever the slot of the other is. -/
theorem memReadWord_of_memWriteWord {b b' : History} {addr : Nat} {v : Word} (h : memWriteWord b addr v = some b')
    (a : Nat) : memReadWord b' a = if a = addr then some v else memReadWord b a := by
  have hlt : addr < 256 := by
    by_contra hn
    simp [memWriteWord_of_le b (not_lt.mp hn)] at h
  rw [memWriteWord_of_lt b hlt] at h
  cases h
  by_cases ha : a < 256
  · rw [memReadWord_of_lt _ ha, memReadWord_of_lt b ha]
    by_cases heq : a = addr
    · subst heq
      simp
    · by_cases hd : addr / 8 = a / 8
      · have hm : addr % 8 ≠ a % 8 := fun hm => heq (Nat.ext_div_mod hd hm).symm
        simp [heq, hd, hm]
      · simp [heq, hd]
  · have hne : a ≠ addr := by omega
    rw [if_neg hne, memReadWord_of_le _ (not_lt.mp ha), memReadWord_of_le b (not_lt.mp ha)]

/-- A Stage write changes the eight words of its slot and no other. -/
theorem memReadWord_set_slot (b : History) (s s' : Fin 32) (S : Stage) (i : Fin 8) :
    memReadWord (b.set s.val S) (wordAddr s'.val i.val) =
      if s' = s then some S[i] else memReadWord b (wordAddr s'.val i.val) := by
  rw [memReadWord_wordAddr, memReadWord_wordAddr]
  by_cases h : s' = s
  · subst h
    simp
  · have hv : s.val ≠ s'.val := fun hv => h (Fin.ext hv.symm)
    simp [h, hv]

/-- Settles O18: by the rule of each access and the two read-after-write lemmas. -/
theorem historyAccessesAreWordAddressed : Obligations.HistoryAccessesAreWordAddressed := by
  intro b s i
  refine ⟨memReadWord_wordAddr b s i, memReadStage_wordAddr b s, fun hi S => ?_, fun addr h v S => ?_, fun v => ?_,
    fun S => ?_⟩
  · exact ⟨memReadStage_of_not_aligned b (not_aligned_of_ne_zero s hi),
      memWriteStage_of_not_aligned b (not_aligned_of_ne_zero s hi) S⟩
  · have hn : ¬(addr < 256 ∧ addr % 8 = 0) := fun ha => h.not_gt ha.1
    exact ⟨memReadWord_of_le b h, memReadStage_of_not_aligned b hn, memWriteWord_of_le b h v,
      memWriteStage_of_not_aligned b hn S⟩
  · have hw := memWriteWord_of_lt b (wordAddr_lt s i) v
    exact ⟨_, hw, memReadWord_of_memWriteWord hw⟩
  · exact ⟨_, memWriteStage_wordAddr b s S, fun s' i' => memReadWord_set_slot b s s' S i'⟩

/-! ### The bytes of a word (R55) -/

/-- The two byte orders are mirror images. -/
theorem wordOfBytes_be (y0 y1 y2 y3 : Byte) : wordOfBytes .be y0 y1 y2 y3 = wordOfBytes .le y3 y2 y1 y0 := rfl

theorem bytesOfWord_be (w : Word) : bytesOfWord .be w = (bytesOfWord .le w).reverse := rfl

theorem wordOfBytes_be_eq_or (y0 y1 y2 y3 : Byte) :
    wordOfBytes .be y0 y1 y2 y3 =
      y0.setWidth 32 <<< 24 ||| y1.setWidth 32 <<< 16 ||| y2.setWidth 32 <<< 8 ||| y3.setWidth 32 := by
  rw [wordOfBytes, ← BitVec.setWidth_eq (y0 ++ y1 ++ y2 ++ y3)]
  exact BitVec.setWidth_append_append_append_eq_shiftLeft_setWidth_or

theorem or_four_reverse {w : Nat} (a b c d : BitVec w) : a ||| b ||| c ||| d = d ||| c ||| b ||| a := by ac_rfl

theorem wordOfBytes_le_eq_or (y0 y1 y2 y3 : Byte) :
    wordOfBytes .le y0 y1 y2 y3 =
      y0.setWidth 32 ||| y1.setWidth 32 <<< 8 ||| y2.setWidth 32 <<< 16 ||| y3.setWidth 32 <<< 24 := by
  rw [← wordOfBytes_be, wordOfBytes_be_eq_or, or_four_reverse]

/-- A little-endian word holds its byte `k` at bits `8k` to `8k+7`. -/
theorem bytesOfWord_wordOfBytes_le (y0 y1 y2 y3 : Byte) :
    bytesOfWord .le (wordOfBytes .le y0 y1 y2 y3) = [y0, y1, y2, y3] := by
  have h0 : (y3 ++ y2 ++ y1 ++ y0).extractLsb' 0 8 = y0 := BitVec.extractLsb'_append_eq_right
  have h1 : (y3 ++ y2 ++ y1 ++ y0).extractLsb' 8 8 = y1 :=
    (BitVec.extractLsb'_append_eq_of_le (by decide)).trans BitVec.extractLsb'_append_eq_right
  have h2 : (y3 ++ y2 ++ y1 ++ y0).extractLsb' 16 8 = y2 :=
    (BitVec.extractLsb'_append_eq_of_le (by decide)).trans
      ((BitVec.extractLsb'_append_eq_of_le (by decide)).trans BitVec.extractLsb'_append_eq_right)
  have h3 : (y3 ++ y2 ++ y1 ++ y0).extractLsb' 24 8 = y3 :=
    (BitVec.extractLsb'_append_eq_of_le (by decide)).trans
      ((BitVec.extractLsb'_append_eq_of_le (by decide)).trans BitVec.extractLsb'_append_eq_left)
  rw [bytesOfWord, wordOfBytes, h0, h1, h2, h3]

theorem bytesOfWord_wordOfBytes (o : WordOrder) (y0 y1 y2 y3 : Byte) :
    bytesOfWord o (wordOfBytes o y0 y1 y2 y3) = [y0, y1, y2, y3] := by
  cases o
  case le => exact bytesOfWord_wordOfBytes_le y0 y1 y2 y3
  case be => rw [bytesOfWord_be, wordOfBytes_be, bytesOfWord_wordOfBytes_le]; rfl

/-- The four bytes of a word, high byte first, are the word. -/
theorem extractLsb'_bytes_append (w : Word) :
    w.extractLsb' 24 8 ++ w.extractLsb' 16 8 ++ w.extractLsb' 8 8 ++ w.extractLsb' 0 8 = w := by
  have h16 : w.extractLsb' 24 8 ++ w.extractLsb' 16 8 = w.extractLsb' 16 16 :=
    BitVec.extractLsb'_append_extractLsb'_eq_extractLsb' rfl
  have h8 : w.extractLsb' 16 16 ++ w.extractLsb' 8 8 = w.extractLsb' 8 24 :=
    BitVec.extractLsb'_append_extractLsb'_eq_extractLsb' rfl
  rw [h16, h8]
  exact BitVec.extractLsb'_append_extractLsb' (w := 24) (len := 8)

theorem wordOfBytes_bytesOfWord (o : WordOrder) (w : Word) :
    wordOfBytes o ((bytesOfWord o w).getD 0 0) ((bytesOfWord o w).getD 1 0) ((bytesOfWord o w).getD 2 0)
      ((bytesOfWord o w).getD 3 0) = w := by
  cases o
  case le => exact extractLsb'_bytes_append w
  case be => exact extractLsb'_bytes_append w

/-! ### The words of a Block (R55) -/

/-- Where every `f a` has length `n`, element `n*i + k` of the concatenation is element `k` of part `i`. -/
theorem getElem?_flatMap_of_length {α β : Type} (f : α → List β) {n k : Nat} (hf : ∀ a, (f a).length = n)
    (hk : k < n) (l : List α) (i : Nat) : (l.flatMap f)[n * i + k]? = l[i]?.bind fun a => (f a)[k]? := by
  induction l generalizing i with
  | nil => simp
  | cons a l ih =>
    rw [List.flatMap_cons]
    cases i with
    | zero =>
      rw [Nat.mul_zero, Nat.zero_add, List.getElem?_append_left (by rwa [hf])]
      rfl
    | succ i =>
      have hi : n * (i + 1) + k = (f a).length + (n * i + k) := by rw [hf, Nat.mul_succ]; omega
      rw [hi, List.getElem?_append_right (Nat.le_add_right _ _), Nat.add_sub_cancel_left, ih i]
      rfl

/-- Byte `4i+k` of a Block's bytes is byte `k` of its word `i`. -/
theorem blockToBytes_getD (o : WordOrder) (w : Block) {i k : Nat} (hi : i < 8) (hk : k < 4) :
    (blockToBytes o w).getD (4 * i + k) 0 = (bytesOfWord o w[i]).getD k 0 := by
  rw [List.getD_eq_getElem?_getD, List.getD_eq_getElem?_getD, blockToBytes,
    getElem?_flatMap_of_length _ (fun j => bytesOfWord_length o w[j]) hk]
  simp [hi]

theorem bytesToBlock_blockToBytes (o : WordOrder) (w : Block) : bytesToBlock o (blockToBytes o w) = w := by
  apply Vector.ext
  intro i hi
  have h0 := blockToBytes_getD o w hi (k := 0) (by decide)
  rw [Nat.add_zero] at h0
  rw [bytesToBlock_getElem, h0, blockToBytes_getD o w hi (by decide), blockToBytes_getD o w hi (by decide),
    blockToBytes_getD o w hi (by decide)]
  exact wordOfBytes_bytesOfWord o w[i]

theorem blockToBytes_bytesToBlock_getD (o : WordOrder) (y : List Byte) {i k : Nat} (hi : i < 8) (hk : k < 4) :
    (blockToBytes o (bytesToBlock o y)).getD (4 * i + k) 0 = y.getD (4 * i + k) 0 := by
  rw [blockToBytes_getD o _ hi hk, bytesToBlock_getElem, bytesOfWord_wordOfBytes]
  interval_cases k <;> rfl

theorem blockToBytes_bytesToBlock (o : WordOrder) {y : List Byte} (hy : y.length = 32) :
    blockToBytes o (bytesToBlock o y) = y := by
  apply List.ext_getElem (by rw [blockToBytes_length, hy])
  intro j hj hj'
  have hbyte := blockToBytes_bytesToBlock_getD o y (i := j / 4) (by omega) (Nat.mod_lt j (by decide))
  rwa [Nat.div_add_mod, List.getD_eq_getElem _ _ hj, List.getD_eq_getElem _ _ hj'] at hbyte

/-- Word `i` depends on the bytes `4i` to `4i+3` alone. -/
theorem bytesToBlock_word_congr (o : WordOrder) {y y' : List Byte} {i : Fin 8}
    (h : ∀ k : Fin 4, y.getD (4 * i.val + k.val) 0 = y'.getD (4 * i.val + k.val) 0) :
    (bytesToBlock o y)[i] = (bytesToBlock o y')[i] := by
  rw [Fin.getElem_fin, Fin.getElem_fin, bytesToBlock_getElem, bytesToBlock_getElem]
  exact congr (congr (congr (congrArg _ (h 0)) (h 1)) (h 2)) (h 3)

/-- Settles O20: the formulas and the inverse laws are those of one word, carried to the Block word by word. -/
theorem byteOrderIsWithinAWord : Obligations.ByteOrderIsWithinAWord := by
  refine ⟨fun y i _ => ⟨?_, ?_⟩, fun o w => ⟨?_, ?_⟩, fun o y hy => ?_, fun o y y' i _ _ h => ?_, rfl, rfl⟩
  · exact (bytesToBlock_getElem .le y i.val i.isLt).trans (wordOfBytes_le_eq_or _ _ _ _)
  · exact (bytesToBlock_getElem .be y i.val i.isLt).trans (wordOfBytes_be_eq_or _ _ _ _)
  · exact blockToBytes_length o w
  · exact bytesToBlock_blockToBytes o w
  · exact blockToBytes_bytesToBlock o hy
  · exact bytesToBlock_word_congr o h

end Sys2Proof.MemoryProofs

/-! ### The engine commands: RESET, ITERATE and the cursor (40_engine.md R110 to R117) -/

namespace Sys2Proof.EngineProofs

open Sys2Proof.Machine Sys2Proof.Claims Sys2Proof.StatusProofs

/-! ### Words whose must-be-zero bits are set (R85, R235) -/

theorem extractLsb'_toNat_eq_bitsAt (w : Word) (lo n : Nat) : (w.extractLsb' lo n).toNat = bitsAt w lo n := by
  rw [BitVec.extractLsb'_toNat, Nat.shiftRight_eq_div_pow, bitsAt]

theorem bitsAt_eq_zero {w : Word} {lo n : Nat} (h : w.extractLsb' lo n = 0) : bitsAt w lo n = 0 := by
  rw [← extractLsb'_toNat_eq_bitsAt, h]
  rfl

/-- Bits 27:0 are the flags, `ARG2` and `ARG1` (R81). -/
theorem bitsAt_low28_eq_zero {w : Word} (hf : flagsOf w = 0) (h2 : arg2Of w = 0) (h1 : arg1Of w = 0) :
    bitsAt w 0 28 = 0 := by
  have hf' : bitsAt w 24 4 = 0 := bitsAt_eq_zero hf
  have h2' : bitsAt w 16 8 = 0 := bitsAt_eq_zero h2
  have h1' : bitsAt w 0 16 = 0 := bitsAt_eq_zero h1
  unfold bitsAt at *
  omega

/-- A command whose bits 27:0 must be zero is refused when one of them is set. -/
theorem needZero_of_low28_ne_zero {w : Word} (h : bitsAt w 0 28 ≠ 0) (i : Instr) :
    needZero (flagsOf w == 0 && arg2Of w == 0 && arg1Of w == 0) i = .error .reservedBits := by
  refine if_neg fun hz => h ?_
  simp only [Bool.and_eq_true, beq_iff_eq] at hz
  obtain ⟨⟨hf, h2⟩, h1⟩ := hz
  exact bitsAt_low28_eq_zero hf h2 h1

theorem decode_of_opcode_one {w : Word} (h : bitsAt w 28 4 = 1) :
    decode w = needZero (flagsOf w == 0 && arg2Of w == 0 && arg1Of w == 0) .reset := by
  have ho : (opcOf w).toNat = 1 := (extractLsb'_toNat_eq_bitsAt w 28 4).trans h
  rw [decode, ho]
  rfl

/-- A request whose word does not decode, from `FAULT = 0` (R235). -/
theorem step_of_not_decoded {s : State} {r : Request} {rest : List HostEvent} {e : IllegalWord}
    (hi : s.inbox = .request r :: rest) (hf : s.fault = false) (hd : decode r.cw = .error e) :
    step s = .next (failed { s with inbox := rest } .illegalCommand (topByteOf r.cw)) := by
  rw [step, hi]
  dsimp only
  rw [hd]
  dsimp only
  rw [illegalCommand, unlessFaulted_ok _ _ (show (setDin r.ports (setInbox rest s)).fault = false from hf)]
  rfl

/-! ### RESET (R110) -/

theorem exec_reset_finished {s : State} (h : s.fault = false) :
    exec .reset s = .next (finished { s with phase := .raw } Engine.zero [] []) :=
  exec_reset_of_not_fault h

/-- Settles O9: the effect is `exec_reset_finished`, which run again meets its own result; the words are the
decoder's. -/
theorem resetZeroesTheEngine : Obligations.ResetZeroesTheEngine := by
  refine ⟨fun s h => ?_, fun s h => ?_, fun s t h ht => ?_, by decide, fun s r rest hi hf ho hz => ?_⟩
  · exact ⟨_, allZero_engineZero, exec_reset_finished h⟩
  · exact exec_reset_of_fault h
  · cases (exec_reset_finished h).symm.trans ht
    exact exec_reset_finished h
  · have hd := (decode_of_opcode_one ho).trans (needZero_of_low28_ne_zero hz .reset)
    exact step_of_not_decoded hi hf hd

/-! ### One step and a run of steps against the relations of the claims (R111, R112) -/

theorem logicalStage_eq_getElem (e : Engine) (j : Fin 32) : logicalStage e j.val = e.logical[j] :=
  (logicalOf_getElem e.bstart e.b j.val j.isLt).symm

theorem view_eq_logical (e : Engine) : view e = e.logical := by
  ext1 j hj
  rw [view, Vector.getElem_ofFn]
  exact logicalStage_eq_getElem e ⟨j, hj⟩

theorem tapOf_eq (cfg : Cfg) (e : Engine) : tapOf cfg e = cfg.tap e.a e.logical[31] := by
  rw [tapOf, evicted]
  exact congrArg _ (logicalStage_eq_getElem e 31)

theorem engineStep_pulled (cfg : Cfg) (i : StepInput) (e : Engine) :
    (engineStep cfg i true e).2 = some (tapOf cfg e) := by
  rw [tapOf_eq, engineStep_out, if_pos rfl]

theorem engineStep_bstart_val (cfg : Cfg) (i : StepInput) (pull : Bool) (e : Engine) :
    (engineStep cfg i pull e).1.bstart.val = (e.bstart.val + 31) % 32 := rfl

theorem stepRel_engineStep (cfg : Cfg) (i : StepInput) (pull : Bool) (e : Engine) :
    StepRel cfg i.1 i.2 e (engineStep cfg i pull e).1 := by
  rw [StepRel, view_eq_logical]
  refine ⟨engineStep_bstart_val cfg i pull e, rfl, rfl, fun j => ?_⟩
  rw [logicalStage_eq_getElem, engineStep_logical]

/-- The engines a run of the inputs `l` from `e` goes through: after `t` steps, the engine of the run of the first
`t` inputs. -/
def enginesOf (cfg : Cfg) (l : List StepInput) (e : Engine) (t : Nat) : Engine := (engineRun cfg false (l.take t) e).1

@[simp] theorem enginesOf_zero (cfg : Cfg) (l : List StepInput) (e : Engine) : enginesOf cfg l e 0 = e := rfl

theorem enginesOf_cons_succ (cfg : Cfg) (i : StepInput) (l : List StepInput) (e : Engine) (t : Nat) :
    enginesOf cfg (i :: l) e (t + 1) = enginesOf cfg l (engineStep cfg i false e).1 t := rfl

/-- The last of them is the engine after the run, pulled or not. -/
theorem enginesOf_length (cfg : Cfg) (pull : Bool) (l : List StepInput) (e : Engine) :
    enginesOf cfg l e l.length = (engineRun cfg pull l e).1 := by
  rw [enginesOf, List.take_length, engineRun_pull cfg false pull]

theorem enginesOf_succ (cfg : Cfg) {l : List StepInput} {t : Nat} {i : StepInput} (h : l[t]? = some i) (e : Engine) :
    enginesOf cfg l e (t + 1) = (engineStep cfg i false (enginesOf cfg l e t)).1 := by
  rw [enginesOf, List.take_add_one, h, engineRun_append]
  rfl

/-- A run of inputs that are `p t` and `k t` at step `t` is a run of steps in the sense of R111. -/
theorem runRel_enginesOf (cfg : Cfg) {p k : Nat → Option Block} {l : List StepInput} {n : Nat}
    (hl : ∀ t < n, l[t]? = some (p t, k t)) (e : Engine) : RunRel cfg p k n (enginesOf cfg l e) := by
  intro t ht
  rw [enginesOf_succ cfg (hl t ht)]
  exact stepRel_engineStep cfg (p t, k t) false _

theorem tapsOf_succ (cfg : Cfg) (es : Nat → Engine) (n : Nat) :
    tapsOf cfg es (n + 1) = tapOf cfg (es 0) :: tapsOf cfg (fun t => es (t + 1)) n := by
  rw [tapsOf, List.range_succ_eq_map, List.map_cons, List.map_map]
  rfl

/-- A run that pulls gives the tap of each engine it goes through. -/
theorem engineRun_pulled (cfg : Cfg) (l : List StepInput) (e : Engine) :
    (engineRun cfg true l e).2 = tapsOf cfg (enginesOf cfg l e) l.length := by
  induction l generalizing e with
  | nil => rfl
  | cons i l ih =>
    have htail : (engineRun cfg true l (engineStep cfg i true e).1).2 =
        tapsOf cfg (fun t => enginesOf cfg (i :: l) e (t + 1)) l.length := ih _
    rw [engineRun_cons, engineStep_pulled, htail, List.length_cons, tapsOf_succ]
    rfl

theorem engineRun_out (cfg : Cfg) (pull : Bool) (l : List StepInput) (e : Engine) :
    (engineRun cfg pull l e).2 = if pull then tapsOf cfg (enginesOf cfg l e) l.length else [] := by
  cases pull
  case false => exact engineRun_quiet cfg l e
  case true => exact engineRun_pulled cfg l e

/-! ### The inputs and the contract of ITERATE (R111, R234) -/

theorem elemAt_eq_portElem (l : Option (List Block)) (t : Nat) : elemAt l t = portElem l t := by cases l <;> rfl

theorem iterInputs_getElem? (P K : Bool) (nk : Nat) {count t : Nat} (ht : t < count) (d : Ports) :
    (iterInputs P K nk count d)[t]? =
      some (if P then elemAt d.push t else none, if K = true ∧ t < nk then elemAt d.key t else none) := by
  simp [iterInputs, ht, elemAt_eq_portElem]

theorem listBad_iff_listWrong {α : Type} (wanted : Bool) (n : Nat) (l : Option (List α)) :
    listBad wanted n l = true ↔ ListWrong wanted n l := by
  cases wanted <;> cases l <;> simp [listBad, ListWrong]

theorem listBad_of_fits {α : Type} {wanted : Bool} {n : Nat} {l : Option (List α)} (h : Fits wanted n l) :
    listBad wanted n l = false :=
  Bool.eq_false_iff.mpr fun hb => h ((listBad_iff_listWrong wanted n l).mp hb)

theorem iterViol_of_fits {P K : Bool} {nk count : Nat} {d : Ports} (hp : Fits P count d.push) (hk : Fits K nk d.key) :
    iterViol P K nk count d = 0 := by
  rw [iterViol, listBad_of_fits hp, listBad_of_fits hk]
  rfl

theorem isViol_iterViol (P K : Bool) (nk count : Nat) (d : Ports) :
    IsViol (iterViol P K nk count d) (ListWrong P count d.push) (ListWrong K nk d.key) False False := by
  rw [← listBad_iff_listWrong, ← listBad_iff_listWrong, iterViol]
  cases listBad P count d.push <;> cases listBad K nk d.key <;> simp [IsViol]

/-- The four bits of R231 fix the violation byte. -/
theorem isViol_unique {v v' : BitVec 8} {push key b1 b2 : Prop} (h : IsViol v push key b1 b2)
    (h' : IsViol v' push key b1 b2) : v = v' := by
  obtain ⟨h0, h1, h2, h3, hlt⟩ := h
  obtain ⟨h0', h1', h2', h3', hlt'⟩ := h'
  have hlow : ∀ i < 4, v.getLsbD i = v'.getLsbD i := by
    intro i hi
    rw [Bool.eq_iff_iff]
    interval_cases i
    · exact h0.trans h0'.symm
    · exact h1.trans h1'.symm
    · exact h2.trans h2'.symm
    · exact h3.trans h3'.symm
  apply BitVec.eq_of_toNat_eq
  apply Nat.eq_of_testBit_eq
  intro i
  by_cases hi : i < 4
  · exact hlow i hi
  · have h16 : 16 ≤ 2 ^ i := Nat.pow_le_pow_right (n := 2) (by decide) (not_lt.mp hi)
    rw [Nat.testBit_lt_two_pow (hlt.trans_le h16), Nat.testBit_lt_two_pow (hlt'.trans_le h16)]

theorem violated_raiseError (viol : BitVec 8) (s : State) :
    Violated s viol (raiseError .contractViolation viol s) :=
  ⟨rfl, rfl, rfl, rfl, rfl, rfl, ⟨rfl, rfl, rfl⟩, rfl, rfl⟩

/-! ### ITERATE (R111, R122 to R129) -/

/-- The eight variants are one operation (R84). -/
theorem exec_iterInstr (P O K : Bool) (nk : BitVec 8) (count : BitVec 16) (s : State) :
    exec (iterInstr P O K nk count) s = .next (iterate P O K nk.toNat count.toNat s) := by
  cases P <;> cases O <;> cases K <;> rfl

/-- In phase RAW with lists that fit, ITERATE leaves the engine of its run and answers the run's Blocks. -/
theorem exec_iterInstr_of_fits {P O K : Bool} {nk : BitVec 8} {count : BitVec 16} {s : State} (hf : s.fault = false)
    (hr : s.phase = .raw) (hp : Fits P count.toNat s.din.push) (hk : Fits K nk.toNat s.din.key) :
    exec (iterInstr P O K nk count) s =
      .next (finished s (runOf O (iterInputs P K nk.toNat count.toNat s.din) s).1
        (runOf O (iterInputs P K nk.toNat count.toNat s.din) s).2 []) := by
  rw [exec_iterInstr, iterate_runs P O K _ _ s hf hr (iterViol_of_fits hp hk)]
  rfl

theorem iterateCommand_iterInstr (P O K : Bool) (nk : BitVec 8) (count : BitVec 16) :
    IterateCommand (iterInstr P O K nk count) P O K nk.toNat count.toNat := by
  intro s hf hr
  refine ⟨fun hp hk => ?_, fun viol hv hne => ?_⟩
  · refine ⟨enginesOf (cfgOf s.cfg) (iterInputs P K nk.toNat count.toNat s.din) s.eng, rfl,
      runRel_enginesOf _ (fun t ht => iterInputs_getElem? P K nk.toNat ht s.din) _, ?_⟩
    rw [exec_iterInstr_of_fits hf hr hp hk, runOf, engineRun_out, ← enginesOf_length, iterInputs_length]
  · obtain rfl := isViol_unique hv (isViol_iterViol P K nk.toNat count.toNat s.din)
    refine ⟨_, ?_, violated_raiseError _ s⟩
    rw [exec_iterInstr, iterate_violates P O K _ _ s hf hr hne]

/-- Settles O11: each variant is `iterInstr` at its flags. -/
theorem iterateRunsItsSteps : Obligations.IterateRunsItsSteps := by
  intro nk count
  refine ⟨?_, ?_, ?_, ?_, fun _ _ => ⟨?_, ?_, ?_, ?_⟩⟩
  · exact iterateCommand_iterInstr false false false 0 count
  · exact iterateCommand_iterInstr true false false 0 count
  · exact iterateCommand_iterInstr false true false 0 count
  · exact iterateCommand_iterInstr true true false 0 count
  · exact iterateCommand_iterInstr false false true nk count
  · exact iterateCommand_iterInstr true false true nk count
  · exact iterateCommand_iterInstr false true true nk count
  · exact iterateCommand_iterInstr true true true nk count

/-! ### The cursor (R117) -/

/-- A run moves the cursor by the stride once a step. -/
theorem engineRun_bstart_val (cfg : Cfg) (pull : Bool) (l : List StepInput) (e : Engine) :
    (engineRun cfg pull l e).1.bstart.val = (e.bstart.val + 31 * l.length) % 32 := by
  induction l generalizing e with
  | nil => exact (Nat.mod_eq_of_lt e.bstart.isLt).symm
  | cons i l ih =>
    have hih := ih (engineStep cfg i pull e).1
    rw [engineStep_bstart_val] at hih
    rw [engineRun_cons, List.length_cons, hih]
    omega

theorem bstart_eq_after_32_steps (cfg : Cfg) (pull : Bool) {l : List StepInput} (h : l.length = 32) (e : Engine) :
    (engineRun cfg pull l e).1.bstart = e.bstart := by
  apply Fin.ext
  have hlt := e.bstart.isLt
  rw [engineRun_bstart_val, h]
  omega

/-- Settles O13: the cursor after a run counts its steps, and ITERATE runs `COUNT` of them. -/
theorem theCursorMovesByTheStride : Obligations.TheCursorMovesByTheStride := by
  refine ⟨engineStep_bstart_val, fun cfg pull l e h => bstart_eq_after_32_steps cfg pull h e,
    fun P O K nk count s hf hr hp hk => ⟨_, exec_iterInstr_of_fits hf hr hp hk, ?_⟩⟩
  have hcur := engineRun_bstart_val (cfgOf s.cfg) O (iterInputs P K nk.toNat count.toNat s.din) s.eng
  rw [iterInputs_length] at hcur
  refine ⟨hcur, fun h0 => hcur.trans ?_⟩
  rw [h0, Fin.val_zero]
  omega

end Sys2Proof.EngineProofs

/-! ### The hash controller: HASH_INIT and the truncated digest (42_hash.md R180, R183) -/

namespace Sys2Proof.HashProofs

open Sys2Proof.Machine Sys2Proof.Claims Sys2Proof.StatusProofs Sys2Proof.EngineProofs

/-! ### HASH_INIT (R180) -/

theorem exec_hashInit_of_fault {s : State} (h : s.fault = true) : exec .hashInit s = .next (refusedState s) := by
  rw [exec, execHashInit, unlessFaulted_faulted _ s h, raiseError_refuses]

theorem exec_hashInit_finished {s : State} (h : s.fault = false) :
    exec .hashInit s = .next (finished { s with phase := .hashAbsorbing } Engine.zero [] []) := by
  rw [exec, execHashInit, unlessFaulted_ok _ s h]
  rfl

/-- After a success `STATUS` shows the phase and nothing else (10_state.md R28, R29). -/
theorem statusReg_finished {s : State} (h : s.fault = false) (e : Engine) (outw : List Block) (outb : List Byte) :
    statusReg (finished s e outw outb) = (phaseBits s.phase).setWidth 32 := by
  have hf : (finished s e outw outb).fault = false := h
  rw [statusReg, hf]
  change 0#16 ++ 0#8 ++ 0#4 ++ 0#1 ++ phaseBits s.phase = _
  cases s.phase <;> rfl

theorem decode_of_opcode_three {w : Word} (h : bitsAt w 28 4 = 3) :
    decode w = needZero (flagsOf w == 0 && arg2Of w == 0 && arg1Of w == 0) .hashInit := by
  have ho : (opcOf w).toNat = 3 := (extractLsb'_toNat_eq_bitsAt w 28 4).trans h
  rw [decode, ho]
  rfl

/-- Settles O10: the effect is `exec_hashInit_finished`, STATUS is that of any success, and the words are the
decoder's. -/
theorem hashInitZeroesTheEngineAndAbsorbs : Obligations.HashInitZeroesTheEngineAndAbsorbs := by
  refine ⟨fun s h => ?_, fun s h => ?_, by decide, fun s r rest hi hf ho hz => ?_⟩
  · exact ⟨Engine.zero, _, allZero_engineZero, rfl, exec_hashInit_finished h,
      statusReg_finished (s := { s with phase := .hashAbsorbing }) h _ _ _⟩
  · exact exec_hashInit_of_fault h
  · have hd := (decode_of_opcode_three ho).trans (needZero_of_low28_ne_zero hz .hashInit)
    exact step_of_not_decoded hi hf hd

/-! ### HASH_FINAL (R182, R183) -/

theorem truncOk_iff {n : Nat} : truncOk n = true ↔ 1 ≤ n ∧ n ≤ 32 := by
  simp [truncOk]

theorem hashViol_of_length {d : Ports} {y : List Byte} (hd : d.bytes1 = some y) (hy : y.length = 32) :
    hashViol d = 0 := by
  rw [hashViol, hd, listBad_wanted, hy]
  rfl

/-- The engine after the final push and the pull of HASH_FINAL (R182). -/
def finalizedEngine (s : State) : Engine := (engineStep (cfgOf s.cfg) (none, none) true (pushMessage s).eng).1

/-- The Block HASH_FINAL pulls, whose bytes are the 32-byte digest (R182, R183). -/
def digestBlock (s : State) : Block := tapOf (cfgOf s.cfg) (pushMessage s).eng

theorem runOf_one_pull (s : State) :
    runOf true [(none, none)] s =
      ((engineStep (cfgOf s.cfg) (none, none) true s.eng).1, [tapOf (cfgOf s.cfg) s.eng]) := by
  rw [runOf, engineRun_cons, engineStep_pulled]
  rfl

theorem extractDigest_pushMessage (n : Nat) (s : State) :
    extractDigest n (pushMessage s) =
      finished { s with phase := .hashFinalized } (finalizedEngine s) []
        ((blockToBytes s.order (digestBlock s)).take n) := by
  rw [extractDigest, runOf_one_pull, List.flatMap_singleton]
  rfl

/-- With a legal length and 32 bytes at `bytes1`, only the answer of HASH_FINAL depends on `n`. -/
theorem exec_hashFinal_of_legal {s : State} {n : BitVec 16} {y : List Byte} (hf : s.fault = false)
    (hp : s.phase = .hashAbsorbing) (hn : 1 ≤ n.toNat ∧ n.toNat ≤ 32) (hd : s.din.bytes1 = some y)
    (hy : y.length = 32) :
    exec (.hashFinal n) s =
      .next (finished { s with phase := .hashFinalized } (finalizedEngine s) []
        ((blockToBytes s.order (digestBlock s)).take n.toNat)) := by
  rw [exec, execHashFinal, inPhase_ok _ _ s hf hp, if_pos (truncOk_iff.mpr hn), hashViol_of_length hd hy,
    unlessViol_zero, extractDigest_pushMessage]

/-- The length is checked before the data (R182, R233). -/
theorem exec_hashFinal_of_illegal {s : State} {n : BitVec 16} (hf : s.fault = false) (hp : s.phase = .hashAbsorbing)
    (hn : ¬(1 ≤ n.toNat ∧ n.toNat ≤ 32)) :
    exec (.hashFinal n) s = .next (failed s .invalidTruncation (truncInfo n.toNat)) := by
  rw [exec, execHashFinal, inPhase_ok _ _ s hf hp, if_neg (mt truncOk_iff.mp hn)]
  rfl

@[simp] theorem outbOf_finished (s : State) (e : Engine) (outw : List Block) (outb : List Byte) :
    outbOf (finished s e outw outb) = outb := rfl

/-- The first five bytes of a Block are those of word 0 and the first of word 1 (R55, R183). -/
theorem blockToBytes_take_five (o : WordOrder) (w : Block) :
    (blockToBytes o w).take 5 = bytesOfWord o w[0] ++ (bytesOfWord o w[1]).take 1 := by
  cases o <;> rfl

/-- Settles O23: by `exec_hashFinal_of_legal` every legal length leaves one state up to the answer, which is a
prefix of the digest Block's bytes. -/
theorem truncationGivesAPrefix : Obligations.TruncationGivesAPrefix := by
  intro s hf hp
  refine ⟨fun y hd hy => ?_, fun n hn => ⟨_, exec_hashFinal_of_illegal hf hp (by omega)⟩⟩
  refine ⟨_, digestBlock s, exec_hashFinal_of_legal hf hp (by decide) hd hy, ?_, fun n h1 h32 => ?_, ?_⟩
  · exact List.take_of_length_le (blockToBytes_length _ _).le
  · refine ⟨_, exec_hashFinal_of_legal hf hp ⟨h1, h32⟩ hd hy, ?_, ?_, rfl⟩
    · rw [outbOf_finished, outbOf_finished, List.take_take]
      exact congrArg (List.take · _) (Nat.min_eq_left h32).symm
    · rw [outbOf_finished, List.length_take, blockToBytes_length, Nat.min_eq_left h32]
  · refine ⟨_, exec_hashFinal_of_legal hf hp (by decide) hd hy, (blockToBytes_take_five _ _).trans ?_⟩
    cases s.order <;> rfl

end Sys2Proof.HashProofs

/-! ### The cipher controller: the Blocks of a key or IV (43_cipher.md R211) -/

namespace Sys2Proof.CipherProofs

open Sys2Proof.Machine Sys2Proof.MemoryProofs

/-- How many Blocks a key becomes, R211's `m`. -/
def keyBlockCount (y : List Byte) : Nat := if y.length = 32 then 1 else 2

/-- The key filled up to whole Blocks, R211's `y'`. -/
def paddedKey (y : List Byte) : List Byte := y ++ List.replicate (32 * keyBlockCount y - y.length) 0

theorem keyBlocks_eq (o : WordOrder) (y : List Byte) :
    keyBlocks o y =
      (List.range (keyBlockCount y)).map fun t => bytesToBlock o (((paddedKey y).drop (32 * t)).take 32) := rfl

@[simp] theorem keyBlocks_length (o : WordOrder) (y : List Byte) : (keyBlocks o y).length = keyBlockCount y := by
  rw [keyBlocks_eq, List.length_map, List.length_range]

theorem eq_of_keyBlocks_getElem? {o : WordOrder} {y : List Byte} {t : Nat} {w : Block}
    (h : (keyBlocks o y)[t]? = some w) : w = bytesToBlock o (((paddedKey y).drop (32 * t)).take 32) := by
  obtain ⟨ht, hw⟩ := List.getElem?_eq_some_iff.mp h
  rw [← hw]
  simp only [keyBlocks_eq, List.getElem_map, List.getElem_range]

/-! ### The bytes of a Block -/

/-- A byte past the end reads as zero, so zero padding does not show. -/
theorem paddedKey_getD (y : List Byte) (j : Nat) : (paddedKey y).getD j 0 = y.getD j 0 := by
  rw [paddedKey]
  rcases Nat.lt_or_ge j y.length with hj | hj
  · exact List.getD_append _ _ _ _ hj
  · rw [List.getD_append_right _ _ _ _ hj, List.getD_eq_getElem?_getD, List.getElem?_getD_replicate_default_eq,
      List.getD_eq_default _ _ hj]

theorem getD_take_drop {α : Type} (l : List α) (d : α) {n k : Nat} (m : Nat) (hk : k < n) :
    ((l.drop m).take n).getD k d = l.getD (m + k) d := by
  rw [List.getD_eq_getElem?_getD, List.getD_eq_getElem?_getD, List.getElem?_take_of_lt hk, List.getElem?_drop]

/-- Byte `k` of a Block made of bytes, counted through the whole Block. -/
theorem blockToBytes_bytesToBlock_getD_of_lt (o : WordOrder) (y : List Byte) {k : Nat} (hk : k < 32) :
    (blockToBytes o (bytesToBlock o y)).getD k 0 = y.getD k 0 := by
  have hbyte := blockToBytes_bytesToBlock_getD o y (i := k / 4) (by omega) (Nat.mod_lt k (by decide))
  rwa [Nat.div_add_mod] at hbyte

/-- Byte `k` of Block `t` is byte `32t+k` of the key, zero past its end. -/
theorem keyBlocks_byte {o : WordOrder} {y : List Byte} {t : Nat} {w : Block} (h : (keyBlocks o y)[t]? = some w)
    {k : Nat} (hk : k < 32) : (blockToBytes o w).getD k 0 = y.getD (32 * t + k) 0 := by
  rw [eq_of_keyBlocks_getElem? h, blockToBytes_bytesToBlock_getD_of_lt o _ hk, getD_take_drop _ _ _ hk,
    paddedKey_getD]

/-! ### A zero byte at the end -/

theorem keyBlockCount_append_zero {y : List Byte} (h : 32 < y.length) :
    keyBlockCount (y ++ [0]) = keyBlockCount y := by
  have hlen : (y ++ [0]).length = y.length + 1 := List.length_append
  rw [keyBlockCount, keyBlockCount, if_neg (by omega), if_neg (by omega)]

/-- Below 64 bytes there is padding, and the zero byte is its first. -/
theorem paddedKey_append_zero {y : List Byte} (h : 32 < y.length) (h64 : y.length < 64) :
    paddedKey (y ++ [0]) = paddedKey y := by
  have hcount : keyBlockCount y = 2 := if_neg (by omega)
  have hlen : (y ++ [0]).length = y.length + 1 := List.length_append
  have hpad : 32 * 2 - y.length = 32 * 2 - (y.length + 1) + 1 := by omega
  rw [paddedKey, paddedKey, keyBlockCount_append_zero h, hcount, hlen, hpad, List.replicate_succ, List.append_assoc,
    List.singleton_append]

theorem keyBlocks_append_zero (o : WordOrder) {y : List Byte} (h : 32 < y.length) (h64 : y.length < 64) :
    keyBlocks o (y ++ [0]) = keyBlocks o y := by
  rw [keyBlocks_eq, keyBlocks_eq, keyBlockCount_append_zero h, paddedKey_append_zero h h64]

/-- Settles O26: the count is R211's `m`, every byte is one of the padded key, and a zero byte at the end leaves count
and padded key as they are. -/
theorem keyBlocksZeroPads : Obligations.KeyBlocksZeroPads := by
  intro o y _ _
  exact ⟨keyBlocks_length o y, fun t w hw k => keyBlocks_byte hw k.isLt, keyBlocks_append_zero o⟩

end Sys2Proof.CipherProofs

/-! ### Errors, their priority and the phases (60_exceptions.md R231 to R246) -/

namespace Sys2Proof.ExceptionProofs

open Sys2Proof.Machine Sys2Proof.Claims Sys2Proof.StatusProofs Sys2Proof.EngineProofs Sys2Proof.HashProofs

/-! ### A word that decodes is legal (R85) -/

theorem eq_true_of_needZero {b : Bool} {i j : Instr} (h : needZero b i = .ok j) : b = true := by
  cases b
  · cases h
  · rfl

theorem keyCount_bounds_of_needKeyCount {nk : BitVec 8} {count : BitVec 16} {i j : Instr}
    (h : needKeyCount nk count i = .ok j) : 1 ≤ nk.toNat ∧ nk.toNat ≤ count.toNat := by
  rw [needKeyCount] at h
  split at h
  case isTrue hk => simpa [keyCountOk] using hk
  case isFalse => cases h

/-- Bits 27:16 are the flags and `ARG2` (R81). -/
theorem bitsAt_16_12_eq_zero {w : Word} (hf : flagsOf w = 0) (h2 : arg2Of w = 0) : bitsAt w 16 12 = 0 := by
  have hf' : bitsAt w 24 4 = 0 := bitsAt_eq_zero hf
  have h2' : bitsAt w 16 8 = 0 := bitsAt_eq_zero h2
  unfold bitsAt at *
  omega

/-- Bit 24 is the reserved bit of the flags and bit 27 is `K` (R81). -/
theorem bitsAt_of_flags {w : Word} {f : Nat} (h : (flagsOf w).toNat = f) :
    bitsAt w 24 1 = f % 2 ∧ bitsAt w 27 1 = f / 8 := by
  have hf : bitsAt w 24 4 = f := (extractLsb'_toNat_eq_bitsAt w 24 4).symm.trans h
  unfold bitsAt at *
  omega

theorem legalWord_of_keyless {w : Word} {f : Nat} {i j : Instr} (ho : bitsAt w 28 4 = 2) (hf : (flagsOf w).toNat = f)
    (h24 : f % 2 = 0) (h27 : f / 8 = 0) (h : needZero (arg2Of w == 0) i = .ok j) : LegalWord w := by
  obtain ⟨e24, e27⟩ := bitsAt_of_flags hf
  have h2 : arg2Of w = 0 := beq_iff_eq.mp (eq_true_of_needZero h)
  exact .inr (.inl ⟨ho, e24.trans h24, e27.trans h27, bitsAt_eq_zero h2⟩)

theorem legalWord_of_keyed {w : Word} {f : Nat} {i j : Instr} (ho : bitsAt w 28 4 = 2) (hf : (flagsOf w).toNat = f)
    (h24 : f % 2 = 0) (h27 : f / 8 = 1) (h : needKeyCount (arg2Of w) (arg1Of w) i = .ok j) : LegalWord w := by
  obtain ⟨e24, e27⟩ := bitsAt_of_flags hf
  have hk := keyCount_bounds_of_needKeyCount h
  rw [arg2Of, arg1Of, extractLsb'_toNat_eq_bitsAt, extractLsb'_toNat_eq_bitsAt] at hk
  exact .inr (.inr (.inl ⟨ho, e24.trans h24, e27.trans h27, hk⟩))

theorem legalWord_of_decodeIter {w : Word} {i : Instr} (ho : bitsAt w 28 4 = 2) (h : decodeIter w = .ok i) :
    LegalWord w := by
  rw [decodeIter] at h
  split at h
  case h_1 hf => exact legalWord_of_keyless ho hf rfl rfl h
  case h_2 hf => exact legalWord_of_keyless ho hf rfl rfl h
  case h_3 hf => exact legalWord_of_keyless ho hf rfl rfl h
  case h_4 hf => exact legalWord_of_keyless ho hf rfl rfl h
  case h_5 hf => exact legalWord_of_keyed ho hf rfl rfl h
  case h_6 hf => exact legalWord_of_keyed ho hf rfl rfl h
  case h_7 hf => exact legalWord_of_keyed ho hf rfl rfl h
  case h_8 hf => exact legalWord_of_keyed ho hf rfl rfl h
  case h_9 => cases h

theorem bitsAt_low28_of_needZero {w : Word} {i j : Instr}
    (h : needZero (flagsOf w == 0 && arg2Of w == 0 && arg1Of w == 0) i = .ok j) : bitsAt w 0 28 = 0 := by
  have hz := eq_true_of_needZero h
  simp only [Bool.and_eq_true, beq_iff_eq] at hz
  obtain ⟨⟨hf, h2⟩, h1⟩ := hz
  exact bitsAt_low28_eq_zero hf h2 h1

theorem bitsAt_16_12_of_needZero {w : Word} {i j : Instr} (h : needZero (flagsOf w == 0 && arg2Of w == 0) i = .ok j) :
    bitsAt w 16 12 = 0 := by
  have hz := eq_true_of_needZero h
  simp only [Bool.and_eq_true, beq_iff_eq] at hz
  obtain ⟨hf, h2⟩ := hz
  exact bitsAt_16_12_eq_zero hf h2

theorem legalWord_of_decode {w : Word} {i : Instr} (h : decode w = .ok i) : LegalWord w := by
  rw [decode] at h
  have hopc : bitsAt w 28 4 = (opcOf w).toNat := (extractLsb'_toNat_eq_bitsAt w 28 4).symm
  split at h
  case h_1 ho => exact .inl ⟨hopc.trans ho, bitsAt_low28_of_needZero h⟩
  case h_2 ho => exact legalWord_of_decodeIter (hopc.trans ho) h
  case h_3 ho => exact .inr (.inr (.inr (.inl ⟨hopc.trans ho, bitsAt_low28_of_needZero h⟩)))
  case h_4 ho => exact .inr (.inr (.inr (.inr (.inl ⟨hopc.trans ho, bitsAt_low28_of_needZero h⟩))))
  case h_5 ho => exact .inr (.inr (.inr (.inr (.inr (.inl ⟨hopc.trans ho, bitsAt_16_12_of_needZero h⟩)))))
  case h_6 ho =>
    have hf : flagsOf w = 0 := beq_iff_eq.mp (eq_true_of_needZero h)
    exact .inr (.inr (.inr (.inr (.inr (.inr (.inl ⟨hopc.trans ho, bitsAt_eq_zero hf⟩))))))
  case h_7 ho =>
    exact .inr (.inr (.inr (.inr (.inr (.inr (.inr ⟨hopc.trans ho, bitsAt_16_12_of_needZero h⟩))))))
  case h_8 => cases h

theorem decode_error_of_not_legalWord {w : Word} (h : ¬LegalWord w) : ∃ e, decode w = .error e := by
  cases hd : decode w with
  | error e => exact ⟨e, rfl⟩
  | ok i => exact absurd (legalWord_of_decode hd) h

/-! ### ILLEGAL_COMMAND (R235) -/

theorem topByteOf_toNat (w : Word) : (topByteOf w).toNat = w.toNat / 2 ^ 24 := by
  rw [topByteOf, extractLsb'_toNat_eq_bitsAt, bitsAt]
  have hw := w.isLt
  omega

/-- Settles O5: a word that is not legal does not decode, and `step_of_not_decoded` gives the step. -/
theorem illegalWordsRaiseIllegalCommand : Obligations.IllegalWordsRaiseIllegalCommand := by
  refine ⟨?_, ?_, fun s r rest hi hf hl => ?_⟩
  · unfold LegalWord bitsAt
    decide
  · unfold LegalWord bitsAt
    decide
  · obtain ⟨e, hd⟩ := decode_error_of_not_legalWord hl
    exact ⟨topByteOf r.cw, topByteOf_toNat r.cw, step_of_not_decoded hi hf hd⟩

/-! ### INVALID_TRUNCATION (R233) -/

theorem truncInfo_toNat (n : Nat) : (truncInfo n).toNat = min n 255 := by
  rw [truncInfo, BitVec.toNat_ofNat]
  omega

theorem exec_hashFinal_of_legal_length {s : State} {n : BitVec 16} (hf : s.fault = false)
    (hp : s.phase = .hashAbsorbing) (hn : 1 ≤ n.toNat ∧ n.toNat ≤ 32) :
    exec (.hashFinal n) s =
      .next (unlessViol (hashViol s.din) (fun s => extractDigest n.toNat (pushMessage s)) s) := by
  rw [exec, execHashFinal, inPhase_ok _ _ s hf hp, if_pos (truncOk_iff.mpr hn)]

/-- HASH_FINAL does not read what a recoverable error writes, and overwrites all of it. -/
theorem exec_hashFinal_after_failed {s : State} (hf : s.fault = false) (hp : s.phase = .hashAbsorbing) (code : ErrCode)
    (info : BitVec 8) (m : BitVec 16) :
    exec (.hashFinal m) (setDin s.din (failed s code info)) = exec (.hashFinal m) s := by
  have hf' : (setDin s.din (failed s code info)).fault = false := hf
  have hp' : (setDin s.din (failed s code info)).phase = .hashAbsorbing := hp
  by_cases hm : 1 ≤ m.toNat ∧ m.toNat ≤ 32
  · rw [exec_hashFinal_of_legal_length hf hp hm, exec_hashFinal_of_legal_length hf' hp' hm, setDin_din]
    by_cases hv : hashViol s.din = 0
    · rw [hv, unlessViol_zero, unlessViol_zero]
      rfl
    · rw [unlessViol_bad _ _ _ hv, unlessViol_bad _ _ _ hv]
      rfl
  · rw [exec_hashFinal_of_illegal hf hp hm, exec_hashFinal_of_illegal hf' hp' hm]
    rfl

/-- Settles O24: the length is checked before the data, and what the error writes HASH_FINAL does not read. -/
theorem invalidTruncationChangesNothing : Obligations.InvalidTruncationChangesNothing := by
  intro s n hf hp hn
  exact ⟨truncInfo n.toNat, _, truncInfo_toNat _, rfl, exec_hashFinal_of_illegal hf hp (by omega),
    exec_hashFinal_after_failed hf hp _ _⟩

/-! ### INVALID_KEY_LENGTH (R232) -/

theorem keyLenOk_iff {n : Nat} : keyLenOk n = true ↔ ¬(n < 32 ∨ 64 < n) := by
  simp [keyLenOk]

theorem exec_cipherInit_of_bad_key {s : State} {klen : BitVec 16} (hf : s.fault = false)
    (hk : klen.toNat < 32 ∨ 64 < klen.toNat) (ivlen : BitVec 8) :
    exec (.cipherInit ivlen klen) s = .next (failed s .invalidKeyLength 0) := by
  rw [exec, execCipherInit, unlessFaulted_ok _ s hf, if_neg fun h => keyLenOk_iff.mp h hk]
  rfl

theorem exec_cipherInit_of_bad_iv {s : State} {klen : BitVec 16} {ivlen : BitVec 8} (hf : s.fault = false)
    (hk : ¬(klen.toNat < 32 ∨ 64 < klen.toNat)) (hv : ivlen.toNat < 32 ∨ 64 < ivlen.toNat) :
    exec (.cipherInit ivlen klen) s = .next (failed s .invalidKeyLength 1) := by
  rw [exec, execCipherInit, unlessFaulted_ok _ s hf, if_pos (keyLenOk_iff.mpr hk),
    if_neg fun h => keyLenOk_iff.mp h hv]
  rfl

/-- With both lengths in range only the data is left to check. -/
theorem exec_cipherInit_of_legal_lengths {s : State} {klen : BitVec 16} {ivlen : BitVec 8} (hf : s.fault = false)
    (hk : ¬(klen.toNat < 32 ∨ 64 < klen.toNat)) (hv : ¬(ivlen.toNat < 32 ∨ 64 < ivlen.toNat)) :
    exec (.cipherInit ivlen klen) s = .next (unlessViol (cipherViol klen.toNat ivlen.toNat s.din) absorbKey s) := by
  rw [exec, execCipherInit, unlessFaulted_ok _ s hf, if_pos (keyLenOk_iff.mpr hk), if_pos (keyLenOk_iff.mpr hv)]

/-- Settles O29: the key length is checked first and the IV length second. -/
theorem invalidKeyLengthChangesNothing : Obligations.InvalidKeyLengthChangesNothing := by
  intro s ivlen klen hf
  exact ⟨fun hk => exec_cipherInit_of_bad_key hf hk ivlen,
    fun h32 h64 hv => exec_cipherInit_of_bad_iv hf (by omega) hv⟩

/-! ### Refusal while `FAULT = 1` (R240) -/

theorem exec_of_fault (i : Instr) {s : State} (h : s.fault = true) : exec i s = .next (refusedState s) := by
  obtain ⟨t, ht, ⟨-, rfl⟩ | ⟨hf, -⟩ | ⟨hf, -⟩ | ⟨hf, -⟩⟩ := exec_left i s
  · exact ht
  all_goals simp [h] at hf

theorem illegalCommand_of_fault (cw : Word) {s : State} (h : s.fault = true) :
    illegalCommand cw s = refusedState s := by
  rw [illegalCommand, unlessFaulted_faulted _ s h, raiseError_refuses]

theorem step_of_decoded {s : State} {r : Request} {rest : List HostEvent} {i : Instr}
    (hi : s.inbox = .request r :: rest) (hd : decode r.cw = .ok i) :
    step s = exec i { s with inbox := rest, din := r.ports } := by
  rw [step, hi]
  dsimp only
  rw [hd]
  rfl

/-- A word that does not decode is refused as well. -/
theorem step_of_request_of_fault {s : State} {r : Request} {rest : List HostEvent} (h : s.fault = true)
    (hi : s.inbox = .request r :: rest) : step s = .next (refusedState { s with inbox := rest }) := by
  have hf : (setDin r.ports (setInbox rest s)).fault = true := h
  rw [step, hi]
  dsimp only
  split
  · rw [exec_of_fault _ hf]
    rfl
  · rw [illegalCommand_of_fault _ hf]
    rfl

theorem step_of_silence {s : State} (h : s.inbox = []) : step s = .next s := by
  rw [step, h]
  rfl

theorem step_of_readReg {s : State} {num : Nat} {rest : List HostEvent} (h : s.inbox = .readReg num :: rest) :
    step s = .next { s with inbox := rest, rdata := some (regValue num s) } := by
  rw [step, h]
  rfl

theorem step_of_writeReg {s : State} {num : Nat} {v : Word} {rest : List HostEvent}
    (h : s.inbox = .writeReg num v :: rest) : step s = .next { s with inbox := rest, rdata := some 0 } := by
  rw [step, h]
  rfl

/-- What stays while a faulted block is not reset: `FAULT`, STATUS, the engine, and the response up to refusals. -/
def StaysFaulted (s t : State) : Prop :=
  t.fault = true ∧ statusReg t = statusReg s ∧ t.eng = s.eng ∧
    (t.resp = s.resp ∨ t.resp = some ⟨.deviceFaulted, 0, [], []⟩)

theorem staysFaulted_refl {s : State} (h : s.fault = true) : StaysFaulted s s := ⟨h, rfl, rfl, .inl rfl⟩

theorem staysFaulted_trans {s t u : State} (hst : StaysFaulted s t) (htu : StaysFaulted t u) : StaysFaulted s u := by
  obtain ⟨-, hstat, heng, hresp⟩ := hst
  obtain ⟨hf, hstat', heng', hresp'⟩ := htu
  refine ⟨hf, hstat'.trans hstat, heng'.trans heng, ?_⟩
  obtain hr | hr := hresp'
  · rwa [hr]
  · exact .inr hr

/-- One step of a faulted block that is not reset, whatever the host presents. -/
theorem step_staysFaulted {s : State} (h : s.fault = true) (hn : ∀ rest, s.inbox ≠ .hardReset :: rest) :
    ∃ t, step s = .next t ∧ StaysFaulted s t ∧ t.inbox = s.inbox.tail := by
  match hi : s.inbox with
  | [] => exact ⟨s, step_of_silence hi, staysFaulted_refl h, hi⟩
  | .hardReset :: rest => exact absurd hi (hn rest)
  | .readReg num :: rest => exact ⟨_, step_of_readReg hi, ⟨h, rfl, rfl, .inl rfl⟩, rfl⟩
  | .writeReg num v :: rest => exact ⟨_, step_of_writeReg hi, ⟨h, rfl, rfl, .inl rfl⟩, rfl⟩
  | .request r :: rest => exact ⟨_, step_of_request_of_fault h hi, ⟨h, rfl, rfl, .inr rfl⟩, rfl⟩

theorem run_succ {s t : State} (h : step s = .next t) (n : Nat) :
    Host.Core.run core (n + 1) s = Host.Core.run core n t := by
  have hc : core.step s = .next t := h
  simp only [Host.Core.run, hc]

theorem run_staysFaulted (n : Nat) {s : State} (h : s.fault = true) (hn : ∀ e ∈ s.inbox.take n, e ≠ .hardReset) :
    ∃ t, Host.Core.run core n s = .next t ∧ StaysFaulted s t := by
  induction n generalizing s with
  | zero => exact ⟨s, rfl, staysFaulted_refl h⟩
  | succ n ih =>
    have hhead : ∀ rest, s.inbox ≠ .hardReset :: rest := fun rest hi => hn .hardReset (by simp [hi]) rfl
    obtain ⟨t, hstep, hst, htail⟩ := step_staysFaulted h hhead
    have hrest : t.inbox.take n = (s.inbox.take (n + 1)).tail := by
      rw [htail, List.tail_take_eq_take_tail, Nat.add_sub_cancel]
    obtain ⟨u, hrun, htu⟩ := ih hst.1 fun e he => hn e (List.mem_of_mem_tail (hrest ▸ he))
    exact ⟨u, (run_succ hstep n).trans hrun, staysFaulted_trans hst htu⟩

/-- Settles O36: one step of each kind, and `StaysFaulted` along a run by induction on its length. -/
theorem aFaultedBlockRefusesEverything : Obligations.AFaultedBlockRefusesEverything := by
  refine ⟨fun s r rest h hi => step_of_request_of_fault h hi, fun s num rest _ hi => ⟨?_, ?_⟩,
    fun s rest hi => ⟨_, step_of_hardReset hi, rfl⟩, fun n s h hn => run_staysFaulted n h hn⟩
  · rintro rfl
    exact step_of_readReg hi
  · rintro rfl
    exact step_of_readReg hi

/-! ### The checks of a decoded command in order (R237) -/

theorem phaseInfo_toNat (p : Phase) : (phaseInfo p).toNat = phaseNumber p := by cases p <;> rfl

/-- A command with a phase of its own checks it, after `FAULT` and before anything else (R236). -/
theorem exec_eq_inPhase {i : Instr} {q : Phase} (h : onlyIn i = some q) :
    ∃ body, ∀ s, exec i s = .next (inPhase q body s) := by
  cases i <;> cases h
  all_goals exact ⟨_, fun _ => rfl⟩

theorem exec_of_not_allowed {i : Instr} {s : State} (hf : s.fault = false) (h : ¬Allowed i s.phase) :
    exec i s = .next (failed s .phaseError (phaseInfo s.phase)) := by
  simp only [Allowed, not_forall] at h
  obtain ⟨q, hq, hp⟩ := h
  obtain ⟨body, hexec⟩ := exec_eq_inPhase hq
  rw [hexec, inPhase_wrong q body s hf hp]
  rfl

/-- What an allowed command leaves: the error of a length out of range, then the fatal fault of wrong data, then
success in the phase of the table (R237 items 4 and 5, R246). -/
def Checked (i : Instr) (s t : State) : Prop :=
  (∃ code info, RangeError i code info ∧ t = failed s code info) ∨
  ((∀ c n, ¬RangeError i c n) ∧ ∃ viol, ViolOf i s.din viol ∧ viol ≠ 0 ∧
    t = raiseError .contractViolation viol s) ∨
  ((∀ c n, ¬RangeError i c n) ∧ ViolOf i s.din 0 ∧
    ∃ e outw outb, t = finished { s with phase := phaseAfter i } e outw outb)

theorem checked_unlessViol {i : Instr} {s : State} {viol : BitVec 8} {body : State → State}
    (hr : ∀ c n, ¬RangeError i c n) (hv : ViolOf i s.din viol)
    (hbody : ∃ e outw outb, body s = finished { s with phase := phaseAfter i } e outw outb) :
    Checked i s (unlessViol viol body s) := by
  by_cases h0 : viol = 0
  · subst h0
    rw [unlessViol_zero]
    exact .inr (.inr ⟨hr, hv, hbody⟩)
  · rw [unlessViol_bad _ _ _ h0]
    exact .inr (.inl ⟨hr, viol, hv, h0, rfl⟩)

theorem isViol_hashViol (d : Ports) : IsViol (hashViol d) False False (ListWrong true 32 d.bytes1) False := by
  rw [← listBad_iff_listWrong, hashViol]
  cases listBad true 32 d.bytes1 <;> simp [IsViol]

theorem isViol_cipherViol (klen ivlen : Nat) (d : Ports) :
    IsViol (cipherViol klen ivlen d) False False (ListWrong true klen d.bytes1) (ListWrong true ivlen d.bytes2) := by
  rw [← listBad_iff_listWrong, ← listBad_iff_listWrong, cipherViol]
  cases listBad true klen d.bytes1 <;> cases listBad true ivlen d.bytes2 <;> simp [IsViol]

/-- A success that keeps the phase is one in the phase of the table. -/
theorem finished_same_phase {s : State} {p : Phase} (hp : s.phase = p) (e : Engine) (outw : List Block)
    (outb : List Byte) : finished s e outw outb = finished { s with phase := p } e outw outb := by
  subst hp
  rfl

theorem checked_iterate {i : Instr} (P O K : Bool) (nk count : Nat) {s : State} (hf : s.fault = false)
    (hp : s.phase = .raw) (ha : phaseAfter i = .raw) (hr : ∀ c n, ¬RangeError i c n)
    (hv : ViolOf i s.din (iterViol P K nk count s.din)) : Checked i s (iterate P O K nk count s) := by
  rw [iterate, inPhase_ok _ _ s hf hp]
  exact checked_unlessViol hr hv ⟨_, _, _, finished_same_phase (hp.trans ha.symm) _ _ _⟩

theorem rangeError_hashFinal {n : BitVec 16} (hn : ¬(1 ≤ n.toNat ∧ n.toNat ≤ 32)) :
    RangeError (.hashFinal n) .invalidTruncation (truncInfo n.toNat) :=
  .inl ⟨n, rfl, by omega, rfl, truncInfo_toNat _⟩

theorem not_rangeError_hashFinal {n : BitVec 16} (hn : 1 ≤ n.toNat ∧ n.toNat ≤ 32) (code : ErrCode) (info : BitVec 8) :
    ¬RangeError (.hashFinal n) code info := by
  rintro (⟨m, hm, hbad, -⟩ | ⟨_, _, hm, -⟩ | ⟨_, _, hm, -⟩)
  · cases hm
    omega
  · cases hm
  · cases hm

theorem not_rangeError_cipherInit {klen : BitVec 16} {ivlen : BitVec 8}
    (hk : ¬(klen.toNat < 32 ∨ 64 < klen.toNat)) (hv : ¬(ivlen.toNat < 32 ∨ 64 < ivlen.toNat)) (code : ErrCode)
    (info : BitVec 8) : ¬RangeError (.cipherInit ivlen klen) code info := by
  rintro (⟨_, hm, -⟩ | ⟨_, _, hm, hbad, -⟩ | ⟨_, _, hm, -, hbad, -⟩)
  · cases hm
  · cases hm
    exact hk hbad
  · cases hm
    exact hv hbad

theorem exec_hashFinal_checked {s : State} (n : BitVec 16) (hf : s.fault = false) (hp : s.phase = .hashAbsorbing) :
    ∃ t, exec (.hashFinal n) s = .next t ∧ Checked (.hashFinal n) s t := by
  by_cases hn : 1 ≤ n.toNat ∧ n.toNat ≤ 32
  · refine ⟨_, exec_hashFinal_of_legal_length hf hp hn, ?_⟩
    exact checked_unlessViol (not_rangeError_hashFinal hn) (isViol_hashViol s.din)
      ⟨_, _, _, extractDigest_pushMessage n.toNat s⟩
  · exact ⟨_, exec_hashFinal_of_illegal hf hp hn, .inl ⟨_, _, rangeError_hashFinal hn, rfl⟩⟩

theorem exec_cipherInit_checked {s : State} (ivlen : BitVec 8) (klen : BitVec 16) (hf : s.fault = false) :
    ∃ t, exec (.cipherInit ivlen klen) s = .next t ∧ Checked (.cipherInit ivlen klen) s t := by
  by_cases hk : klen.toNat < 32 ∨ 64 < klen.toNat
  · have hr : RangeError (.cipherInit ivlen klen) .invalidKeyLength 0 := .inr (.inl ⟨_, _, rfl, hk, rfl, rfl⟩)
    exact ⟨_, exec_cipherInit_of_bad_key hf hk ivlen, .inl ⟨_, _, hr, rfl⟩⟩
  by_cases hv : ivlen.toNat < 32 ∨ 64 < ivlen.toNat
  · have hr : RangeError (.cipherInit ivlen klen) .invalidKeyLength 1 := .inr (.inr ⟨_, _, rfl, hk, hv, rfl, rfl⟩)
    exact ⟨_, exec_cipherInit_of_bad_iv hf hk hv, .inl ⟨_, _, hr, rfl⟩⟩
  · refine ⟨_, exec_cipherInit_of_legal_lengths hf hk hv, ?_⟩
    exact checked_unlessViol (not_rangeError_cipherInit hk hv) (isViol_cipherViol _ _ s.din) ⟨_, _, _, rfl⟩

theorem exec_hashBlock_checked {s : State} (hf : s.fault = false) (hp : s.phase = .hashAbsorbing) :
    ∃ t, exec .hashBlock s = .next t ∧ Checked .hashBlock s t := by
  refine ⟨_, rfl, ?_⟩
  rw [inPhase_ok _ _ s hf hp]
  exact checked_unlessViol (by simp [RangeError]) (isViol_hashViol s.din) ⟨_, _, _, finished_same_phase hp _ _ _⟩

theorem exec_cipherKs_checked {s : State} (count : BitVec 16) (hf : s.fault = false) (hp : s.phase = .cipherReady) :
    ∃ t, exec (.cipherKs count) s = .next t ∧ Checked (.cipherKs count) s t := by
  refine ⟨_, rfl, ?_⟩
  rw [inPhase_ok _ _ s hf hp]
  exact .inr (.inr ⟨by simp [RangeError], rfl, _, _, _, finished_same_phase hp _ _ _⟩)

/-- Every allowed command goes through its checks in the order of R237. -/
theorem exec_checked {i : Instr} {s : State} (hf : s.fault = false) (h : Allowed i s.phase) :
    ∃ t, exec i s = .next t ∧ Checked i s t := by
  cases i
  case reset => exact ⟨_, exec_reset_finished hf, .inr (.inr ⟨by simp [RangeError], rfl, _, _, _, rfl⟩)⟩
  case hashInit => exact ⟨_, exec_hashInit_finished hf, .inr (.inr ⟨by simp [RangeError], rfl, _, _, _, rfl⟩)⟩
  case hashBlock => exact exec_hashBlock_checked hf (h _ rfl)
  case hashFinal n => exact exec_hashFinal_checked n hf (h _ rfl)
  case cipherInit ivlen klen => exact exec_cipherInit_checked ivlen klen hf
  case cipherKs count => exact exec_cipherKs_checked count hf (h _ rfl)
  all_goals
    exact ⟨_, rfl, checked_iterate _ _ _ _ _ hf (h _ rfl) rfl (by simp [RangeError]) (isViol_iterViol _ _ _ _ s.din)⟩

/-! ### The phase table (R236, R246) -/

theorem code_of_rangeError {i : Instr} {code : ErrCode} {info : BitVec 8} (h : RangeError i code info) :
    code = .invalidTruncation ∨ code = .invalidKeyLength := by
  obtain ⟨_, _, _, hc, _⟩ | ⟨_, _, _, _, hc, _⟩ | ⟨_, _, _, _, _, hc, _⟩ := h
  · exact .inl hc
  · exact .inr hc
  · exact .inr hc

/-- The response and the phase of an allowed command (R246). -/
theorem phase_of_checked {i : Instr} {s t : State} (h : Checked i s t) :
    ∃ r : Response, t.resp = some r ∧ r.code ≠ .phaseError ∧ (r.code = .ok → t.phase = phaseAfter i) ∧
      (Recoverable r.code → t.phase = s.phase) ∧ (r.code = .contractViolation → t.phase = .faulted) := by
  obtain ⟨code, info, hr, rfl⟩ | ⟨-, viol, -, -, rfl⟩ | ⟨-, -, e, outw, outb, rfl⟩ := h
  · refine ⟨_, rfl, ?_⟩
    obtain rfl | rfl := code_of_rangeError hr <;> simp [failed]
  · exact ⟨_, rfl, by simp [Recoverable, raiseError_contractViolation]⟩
  · exact ⟨_, rfl, by simp [Recoverable, finished]⟩

/-- Settles O32: not allowed, allowed, faulted, and hard reset each have their rule. -/
theorem thePhaseTableHolds : Obligations.ThePhaseTableHolds := by
  refine ⟨fun i s hf h => ?_, fun i s hf h => ?_, fun i s h => exec_of_fault i h,
    fun s rest hi => ⟨_, step_of_hardReset hi, rfl⟩⟩
  · exact ⟨_, phaseInfo_toNat s.phase, exec_of_not_allowed hf h⟩
  · obtain ⟨t, ht, hc⟩ := exec_checked hf h
    obtain ⟨r, hr⟩ := phase_of_checked hc
    exact ⟨t, r, ht, hr⟩

/-! ### One code, that of the first check (R237) -/

theorem answers_of_checked {i : Instr} {s t : State} (hf : s.fault = false) (ha : Allowed i s.phase)
    (h : Checked i s t) : ∃ a : Response, t.resp = some a ∧ Answers i s a.code a.info := by
  obtain ⟨code, info, hr, rfl⟩ | ⟨hr, viol, hv, hne, rfl⟩ | ⟨hr, hv, e, outw, outb, rfl⟩ := h
  · exact ⟨_, rfl, .inr (.inr (.inl ⟨hf, ha, hr⟩))⟩
  · exact ⟨_, rfl, .inr (.inr (.inr (.inl ⟨hf, ha, hr, hv, hne, rfl⟩)))⟩
  · exact ⟨_, rfl, .inr (.inr (.inr (.inr ⟨hf, ha, hr, hv, rfl, rfl⟩)))⟩

theorem exec_answers (i : Instr) (s : State) :
    ∃ (t : State) (a : Response), exec i s = .next t ∧ t.resp = some a ∧ Answers i s a.code a.info := by
  cases hf : s.fault with
  | true => exact ⟨_, _, exec_of_fault i hf, rfl, .inl ⟨hf, rfl, rfl⟩⟩
  | false =>
    by_cases ha : Allowed i s.phase
    · obtain ⟨t, ht, hc⟩ := exec_checked hf ha
      obtain ⟨a, hr, hans⟩ := answers_of_checked hf ha hc
      exact ⟨t, a, ht, hr, hans⟩
    · exact ⟨_, _, exec_of_not_allowed hf ha, rfl, .inr (.inl ⟨hf, ha, rfl, phaseInfo_toNat s.phase⟩)⟩

/-- Settles O33: a word that decodes answers as its command does, and one that does not is not a legal word. -/
theorem theFirstErrorInPriorityIsReported : Obligations.TheFirstErrorInPriorityIsReported := by
  intro s r rest hi
  cases hd : decode r.cw with
  | ok i =>
    obtain ⟨t, a, ht, ha, hans⟩ := exec_answers i { s with inbox := rest, din := r.ports }
    refine ⟨t, a, (step_of_decoded hi hd).trans ht, ha, fun hl => absurd (legalWord_of_decode hd) hl, ?_⟩
    rintro j ⟨⟩
    exact hans
  | error e =>
    cases hf : s.fault with
    | true =>
      exact ⟨_, _, step_of_request_of_fault hf hi, rfl, fun _ => ⟨fun _ => ⟨rfl, rfl⟩, nofun⟩, nofun⟩
    | false =>
      exact ⟨_, _, step_of_not_decoded hi hf hd, rfl, fun _ => ⟨nofun, fun _ => ⟨rfl, topByteOf_toNat r.cw⟩⟩, nofun⟩

end Sys2Proof.ExceptionProofs

/-! ### The decoder and the encoder (30_encoding.md R81 to R86) -/

namespace Sys2Proof.EncodingProofs

open Sys2Proof.Claims Sys2Proof.EngineProofs Sys2Proof.ExceptionProofs

/-! ### Decoding an encoding (R84) -/

theorem needKeyCount_of_ok {nk : BitVec 8} {count : BitVec 16} (h : keyCountOk nk count = true) (i : Instr) :
    needKeyCount nk count i = .ok i := if_pos h

theorem decode_encode {i : Instr} (h : i.wf = true) : decode (encode i) = .ok i := by
  cases i
  case reset => decide
  case hashInit => decide
  case hashBlock => decide
  case hashFinal n => simp [encode, decode, needZero]
  case cipherInit ivlen klen => simp [encode, decode, needZero]
  case cipherKs count => simp [encode, decode, needZero]
  case iterK nk count | iterPK nk count | iterKO nk count | iterPKO nk count =>
    simp [encode, decode, decodeIter, needKeyCount_of_ok h]
  case iter count | iterP count | iterO count | iterPO count =>
    simp [encode, decode, decodeIter, needZero]

/-- Settles O1: the fields of an encoded word are those it was made of, and well-formed key counts pass. -/
theorem decodeOfEncodeIsTheCommand : Obligations.DecodeOfEncodeIsTheCommand := fun _ h => decode_encode h

/-! ### Encoding a decoding (R85) -/

/-- A word whose `OPC` and flags make up the byte `top` is that byte with its own operands. -/
theorem mkWord_of_fields {w : Word} {top : BitVec 8} {o f : Nat} (ho : (opcOf w).toNat = o)
    (hf : (flagsOf w).toNat = f) (ht : top.toNat = 16 * o + f) : mkWord top (arg2Of w) (arg1Of w) = w := by
  have htop : topByteOf w = top := by
    apply BitVec.eq_of_toNat_eq
    rw [opcOf, extractLsb'_toNat_eq_bitsAt, bitsAt] at ho
    rw [flagsOf, extractLsb'_toNat_eq_bitsAt, bitsAt] at hf
    rw [topByteOf, extractLsb'_toNat_eq_bitsAt, bitsAt]
    omega
  rw [← htop, mkWord_fields]

theorem eq_of_needZero {b : Bool} {i j : Instr} (h : needZero b i = .ok j) : i = j := by
  cases b
  · cases h
  · exact Except.ok.inj h

theorem ok_of_needKeyCount {nk : BitVec 8} {count : BitVec 16} {i j : Instr} (h : needKeyCount nk count i = .ok j) :
    keyCountOk nk count = true ∧ i = j := by
  rw [needKeyCount] at h
  split at h
  case isTrue hk => exact ⟨hk, Except.ok.inj h⟩
  case isFalse => cases h

/-- `i` is well formed and `w` is its word. -/
def IsWordOf (w : Word) (i : Instr) : Prop := i.wf = true ∧ encode i = w

/-- A command without operands: every bit below `OPC` was checked. -/
theorem isWordOf_bare {w : Word} {top : BitVec 8} {o : Nat} {i j : Instr} (ho : (opcOf w).toNat = o)
    (h : needZero (flagsOf w == 0 && arg2Of w == 0 && arg1Of w == 0) i = .ok j) (ht : top.toNat = 16 * o)
    (hi : i.wf = true) (he : encode i = mkWord top 0 0) : IsWordOf w j := by
  have hz := eq_true_of_needZero h
  simp only [Bool.and_eq_true, beq_iff_eq] at hz
  obtain ⟨⟨hf, h2⟩, h1⟩ := hz
  have hw := mkWord_of_fields (top := top) ho (congrArg BitVec.toNat hf) ht
  rw [h2, h1] at hw
  exact eq_of_needZero h ▸ ⟨hi, he.trans hw⟩

/-- A command with `ARG1` alone, whose flags and `ARG2` were checked. -/
theorem isWordOf_arg1 {w : Word} {top : BitVec 8} {o : Nat} {i j : Instr} (ho : (opcOf w).toNat = o)
    (h : needZero (flagsOf w == 0 && arg2Of w == 0) i = .ok j) (ht : top.toNat = 16 * o)
    (hi : i.wf = true) (he : encode i = mkWord top 0 (arg1Of w)) : IsWordOf w j := by
  have hz := eq_true_of_needZero h
  simp only [Bool.and_eq_true, beq_iff_eq] at hz
  obtain ⟨hf, h2⟩ := hz
  have hw := mkWord_of_fields (top := top) ho (congrArg BitVec.toNat hf) ht
  rw [h2] at hw
  exact eq_of_needZero h ▸ ⟨hi, he.trans hw⟩

theorem isWordOf_cipherInit {w : Word} {j : Instr} (ho : (opcOf w).toNat = 6)
    (h : needZero (flagsOf w == 0) (.cipherInit (arg2Of w) (arg1Of w)) = .ok j) : IsWordOf w j := by
  have hf : flagsOf w = 0 := beq_iff_eq.mp (eq_true_of_needZero h)
  exact eq_of_needZero h ▸ ⟨rfl, mkWord_of_fields ho (congrArg BitVec.toNat hf) rfl⟩

/-- ITERATE without `K`, whose `ARG2` was checked. -/
theorem isWordOf_keyless {w : Word} {top : BitVec 8} {f : Nat} {i j : Instr} (ho : (opcOf w).toNat = 2)
    (hf : (flagsOf w).toNat = f) (h : needZero (arg2Of w == 0) i = .ok j) (ht : top.toNat = 16 * 2 + f)
    (hi : i.wf = true) (he : encode i = mkWord top 0 (arg1Of w)) : IsWordOf w j := by
  have h2 : arg2Of w = 0 := beq_iff_eq.mp (eq_true_of_needZero h)
  have hw := mkWord_of_fields ho hf ht
  rw [h2] at hw
  exact eq_of_needZero h ▸ ⟨hi, he.trans hw⟩

/-- ITERATE with `K`, whose key count was checked. -/
theorem isWordOf_keyed {w : Word} {top : BitVec 8} {f : Nat} {i j : Instr} (ho : (opcOf w).toNat = 2)
    (hf : (flagsOf w).toNat = f) (h : needKeyCount (arg2Of w) (arg1Of w) i = .ok j) (ht : top.toNat = 16 * 2 + f)
    (hi : i.wf = keyCountOk (arg2Of w) (arg1Of w)) (he : encode i = mkWord top (arg2Of w) (arg1Of w)) :
    IsWordOf w j := by
  obtain ⟨hk, rfl⟩ := ok_of_needKeyCount h
  exact ⟨hi.trans hk, he.trans (mkWord_of_fields ho hf ht)⟩

theorem isWordOf_of_decodeIter {w : Word} {i : Instr} (ho : (opcOf w).toNat = 2) (h : decodeIter w = .ok i) :
    IsWordOf w i := by
  rw [decodeIter] at h
  split at h
  case h_1 hf => exact isWordOf_keyless ho hf h rfl rfl rfl
  case h_2 hf => exact isWordOf_keyless ho hf h rfl rfl rfl
  case h_3 hf => exact isWordOf_keyless ho hf h rfl rfl rfl
  case h_4 hf => exact isWordOf_keyless ho hf h rfl rfl rfl
  case h_5 hf => exact isWordOf_keyed ho hf h rfl rfl rfl
  case h_6 hf => exact isWordOf_keyed ho hf h rfl rfl rfl
  case h_7 hf => exact isWordOf_keyed ho hf h rfl rfl rfl
  case h_8 hf => exact isWordOf_keyed ho hf h rfl rfl rfl
  case h_9 => cases h

theorem isWordOf_of_decode {w : Word} {i : Instr} (h : decode w = .ok i) : IsWordOf w i := by
  rw [decode] at h
  split at h
  case h_1 ho => exact isWordOf_bare ho h rfl rfl rfl
  case h_2 ho => exact isWordOf_of_decodeIter ho h
  case h_3 ho => exact isWordOf_bare ho h rfl rfl rfl
  case h_4 ho => exact isWordOf_bare ho h rfl rfl rfl
  case h_5 ho => exact isWordOf_arg1 ho h rfl rfl rfl
  case h_6 ho => exact isWordOf_cipherInit ho h
  case h_7 ho => exact isWordOf_arg1 ho h rfl rfl rfl
  case h_8 => cases h

/-- Settles O2: each branch of the decoder has checked every bit it does not put into the command. -/
theorem encodeOfDecodeIsTheWord : Obligations.EncodeOfDecodeIsTheWord := fun _ _ h => isWordOf_of_decode h

/-! ### The legal words (R85, R86) -/

/-- The encoding of a well-formed command, recognised by its three parts, decodes. -/
theorem decodes_of_parts {w : Word} {i : Instr} {top : BitVec 8} (hi : i.wf = true)
    (he : encode i = mkWord top (arg2Of w) (arg1Of w)) (ht : top.toNat = bitsAt w 24 8) : ∃ i, decode w = .ok i := by
  have htop : top = topByteOf w :=
    BitVec.eq_of_toNat_eq (ht.trans (extractLsb'_toNat_eq_bitsAt w 24 8).symm)
  rw [htop, mkWord_fields] at he
  exact ⟨i, he ▸ decode_encode hi⟩

theorem arg1Of_eq_zero {w : Word} (h : bitsAt w 0 16 = 0) : arg1Of w = 0 :=
  BitVec.eq_of_toNat_eq ((extractLsb'_toNat_eq_bitsAt w 0 16).trans h)

theorem arg2Of_eq_zero {w : Word} (h : bitsAt w 16 8 = 0) : arg2Of w = 0 :=
  BitVec.eq_of_toNat_eq ((extractLsb'_toNat_eq_bitsAt w 16 8).trans h)

theorem decodes_bare {w : Word} {i : Instr} {top : BitVec 8} {o : Nat} (hi : i.wf = true)
    (he : encode i = mkWord top 0 0) (ho : bitsAt w 28 4 = o) (hz : bitsAt w 0 28 = 0) (ht : top.toNat = 16 * o) :
    ∃ i, decode w = .ok i := by
  have h2 : bitsAt w 16 8 = 0 := by unfold bitsAt at *; omega
  have h1 : bitsAt w 0 16 = 0 := by unfold bitsAt at *; omega
  refine decodes_of_parts hi ?_ (ht.trans ?_)
  · rw [arg2Of_eq_zero h2, arg1Of_eq_zero h1, he]
  · unfold bitsAt at *
    omega

theorem decodes_arg1 {w : Word} {i : Instr} {top : BitVec 8} {o : Nat} (hi : i.wf = true)
    (he : encode i = mkWord top 0 (arg1Of w)) (ho : bitsAt w 28 4 = o) (hz : bitsAt w 16 12 = 0)
    (ht : top.toNat = 16 * o) : ∃ i, decode w = .ok i := by
  have h2 : bitsAt w 16 8 = 0 := by unfold bitsAt at *; omega
  refine decodes_of_parts hi ?_ (ht.trans ?_)
  · rw [arg2Of_eq_zero h2, he]
  · unfold bitsAt at *
    omega

theorem decodes_cipherInit {w : Word} (ho : bitsAt w 28 4 = 6) (hz : bitsAt w 24 4 = 0) : ∃ i, decode w = .ok i := by
  refine decodes_of_parts (i := .cipherInit (arg2Of w) (arg1Of w)) (top := 0x60) rfl rfl ?_
  change 96 = _
  unfold bitsAt at *
  omega

/-- The top byte of an ITERATE word from `K` and the two flags that are free. -/
theorem topByte_of_iterate {w : Word} {k : Nat} (ho : bitsAt w 28 4 = 2) (h24 : bitsAt w 24 1 = 0)
    (h27 : bitsAt w 27 1 = k) :
    32 + 8 * k = bitsAt w 24 8 ∨ 34 + 8 * k = bitsAt w 24 8 ∨ 36 + 8 * k = bitsAt w 24 8 ∨
      38 + 8 * k = bitsAt w 24 8 := by
  unfold bitsAt at *
  omega

theorem decodes_keyless {w : Word} (ho : bitsAt w 28 4 = 2) (h24 : bitsAt w 24 1 = 0) (h27 : bitsAt w 27 1 = 0)
    (hz : bitsAt w 16 8 = 0) : ∃ i, decode w = .ok i := by
  have h2 := arg2Of_eq_zero hz
  obtain ht | ht | ht | ht := topByte_of_iterate ho h24 h27
  · exact decodes_of_parts (i := .iter (arg1Of w)) (top := 0x20) rfl (by rw [h2]; rfl) ht
  · exact decodes_of_parts (i := .iterP (arg1Of w)) (top := 0x22) rfl (by rw [h2]; rfl) ht
  · exact decodes_of_parts (i := .iterO (arg1Of w)) (top := 0x24) rfl (by rw [h2]; rfl) ht
  · exact decodes_of_parts (i := .iterPO (arg1Of w)) (top := 0x26) rfl (by rw [h2]; rfl) ht

theorem decodes_keyed {w : Word} (ho : bitsAt w 28 4 = 2) (h24 : bitsAt w 24 1 = 0) (h27 : bitsAt w 27 1 = 1)
    (h1 : 1 ≤ bitsAt w 16 8) (h2 : bitsAt w 16 8 ≤ bitsAt w 0 16) : ∃ i, decode w = .ok i := by
  have hk : keyCountOk (arg2Of w) (arg1Of w) = true := by
    simp only [keyCountOk, arg2Of, arg1Of, extractLsb'_toNat_eq_bitsAt, h1, h2, decide_true, Bool.and_true]
  obtain ht | ht | ht | ht := topByte_of_iterate ho h24 h27
  · exact decodes_of_parts (i := .iterK (arg2Of w) (arg1Of w)) hk rfl ht
  · exact decodes_of_parts (i := .iterPK (arg2Of w) (arg1Of w)) hk rfl ht
  · exact decodes_of_parts (i := .iterKO (arg2Of w) (arg1Of w)) hk rfl ht
  · exact decodes_of_parts (i := .iterPKO (arg2Of w) (arg1Of w)) hk rfl ht

theorem decodes_of_legalWord {w : Word} (h : LegalWord w) : ∃ i, decode w = .ok i := by
  obtain ⟨ho, hz⟩ | ⟨ho, h24, h27, hz⟩ | ⟨ho, h24, h27, h1, h2⟩ | ⟨ho, hz⟩ | ⟨ho, hz⟩ | ⟨ho, hz⟩ | ⟨ho, hz⟩ |
    ⟨ho, hz⟩ := h
  · exact decodes_bare (i := .reset) rfl rfl ho hz rfl
  · exact decodes_keyless ho h24 h27 hz
  · exact decodes_keyed ho h24 h27 h1 h2
  · exact decodes_bare (i := .hashInit) rfl rfl ho hz rfl
  · exact decodes_bare (i := .hashBlock) rfl rfl ho hz rfl
  · exact decodes_arg1 (i := .hashFinal (arg1Of w)) rfl rfl ho hz rfl
  · exact decodes_cipherInit ho hz
  · exact decodes_arg1 (i := .cipherKs (arg1Of w)) rfl rfl ho hz rfl

/-- Settles O3: a legal word is the word of a well-formed command; the converse is `legalWord_of_decode`. -/
theorem decodeAcceptsExactlyTheLegalWords : Obligations.DecodeAcceptsExactlyTheLegalWords :=
  fun _ => ⟨fun ⟨_, h⟩ => legalWord_of_decode h, decodes_of_legalWord⟩

/-- Settles O4: the decoder run on the eleven words. -/
theorem sampleWordsDecodeAsTheSpecSays : Obligations.SampleWordsDecodeAsTheSpecSays := by
  unfold Obligations.SampleWordsDecodeAsTheSpecSays
  decide

end Sys2Proof.EncodingProofs

/-! ### What a step keeps: the status coherent, the straps, the frame of a command; the registers (10_state.md R26 to
R29) -/

namespace Sys2Proof.StepProofs

open Sys2Proof.Machine Sys2Proof.Safety Sys2Proof.Claims Sys2Proof.StatusProofs Sys2Proof.EngineProofs
  Sys2Proof.HashProofs Sys2Proof.ExceptionProofs

/-! ### What a step takes from the host -/

/-- A step takes something else from the host, or nothing, unless it takes a request. -/
theorem step_or_request {s t : State} (h : step s = .next t) :
    (s.inbox = [] ∧ t = s) ∨
    (∃ rest, s.inbox = .hardReset :: rest ∧ t = hardReset (setInbox rest s)) ∨
    (∃ num rest, s.inbox = .readReg num :: rest ∧ t = readReg num (setInbox rest s)) ∨
    (∃ num v rest, s.inbox = .writeReg num v :: rest ∧ t = writeReg num v (setInbox rest s)) ∨
    (∃ r rest, s.inbox = .request r :: rest) := by
  obtain h | h | h | h | ⟨r, rest, i, hi, -⟩ | ⟨r, rest, e, hi, -⟩ := step_cases s t h
  · exact .inl h
  · exact .inr (.inl h)
  · exact .inr (.inr (.inl h))
  · exact .inr (.inr (.inr (.inl h)))
  · exact .inr (.inr (.inr (.inr ⟨r, rest, hi⟩)))
  · exact .inr (.inr (.inr (.inr ⟨r, rest, hi⟩)))

/-! ### The violation byte (R231) -/

/-- The data at the ports fixes the violation byte of a command. -/
theorem violOf_unique {i : Instr} {d : Ports} {v v' : BitVec 8} (h : ViolOf i d v) (h' : ViolOf i d v') : v = v' := by
  cases i
  case reset | hashInit | cipherKs => exact h.trans h'.symm
  all_goals exact isViol_unique h h'

theorem lt_16_of_isViol {v : BitVec 8} {push key b1 b2 : Prop} (h : IsViol v push key b1 b2) : v.toNat < 16 := by
  obtain ⟨-, -, -, -, hlt⟩ := h
  exact hlt

theorem lt_16_of_violOf {i : Instr} {d : Ports} {v : BitVec 8} (h : ViolOf i d v) : v.toNat < 16 := by
  cases i
  case reset | hashInit | cipherKs =>
    obtain rfl : v = 0 := h
    decide
  all_goals exact lt_16_of_isViol h

/-! ### Coherence of what a command leaves -/

theorem coherent_congr {s t : State} (h : Coherent s) (hf : t.fault = s.fault) (hp : t.phase = s.phase)
    (hc : t.errcode = s.errcode) (hn : t.errinfo = s.errinfo) (hd : t.din = noPorts) : Coherent t := by
  obtain ⟨h1, h2, h3, h4, h5, h6, h7, h8, -⟩ := h
  rw [Coherent, hf, hp, hc, hn]
  exact ⟨h1, h2, h3, h4, h5, h6, h7, h8, hd⟩

theorem coherent_invalidTruncation {s : State} {info : BitVec 8} (hf : s.fault = false)
    (ha : s.phase = .hashAbsorbing) (h : info = 0 ∨ 32 < info.toNat) : Coherent (failed s .invalidTruncation info) := by
  simpa [Coherent, failed, hf, ha] using h

section NotFaulted
variable {s : State} (hf : s.fault = false) (hp : s.phase ≠ .faulted)
include hf hp

theorem coherent_finished (e : Engine) (outw : List Block) (outb : List Byte) :
    Coherent (finished s e outw outb) := by
  simp [Coherent, finished, hf, hp]

theorem coherent_phaseError : Coherent (failed s .phaseError (phaseInfo s.phase)) := by
  simp [Coherent, failed, hf, hp]

theorem coherent_illegalCommand (info : BitVec 8) : Coherent (failed s .illegalCommand info) := by
  simp [Coherent, failed, hf, hp]

theorem coherent_invalidKeyLength {info : BitVec 8} (h : info = 0 ∨ info = 1) :
    Coherent (failed s .invalidKeyLength info) := by
  simpa [Coherent, failed, hf, hp] using h

/-- The error of a length out of range, which HASH_FINAL raises in HASH_ABSORBING only (R232, R233). -/
theorem coherent_of_rangeError {i : Instr} {code : ErrCode} {info : BitVec 8} (ha : Allowed i s.phase)
    (h : RangeError i code info) : Coherent (failed s code info) := by
  obtain ⟨n, rfl, hn, rfl, hinfo⟩ | ⟨_, _, rfl, -, rfl, rfl⟩ | ⟨_, _, rfl, -, -, rfl, rfl⟩ := h
  · refine coherent_invalidTruncation hf (ha _ rfl) (hn.imp (fun h0 => ?_) (fun h32 => ?_))
    · apply BitVec.eq_of_toNat_eq
      rw [hinfo, h0]
      rfl
    · omega
  · exact coherent_invalidKeyLength hf hp (.inl rfl)
  · exact coherent_invalidKeyLength hf hp (.inr rfl)

end NotFaulted

theorem coherent_violated {viol : BitVec 8} (s : State) (h0 : viol ≠ 0) (hlt : viol.toNat < 16) :
    Coherent (raiseError .contractViolation viol s) := by
  have hpos : 0 < viol.toNat := Nat.pos_of_ne_zero fun h => h0 (BitVec.eq_of_toNat_eq h)
  simp [Coherent, raiseError_contractViolation, hpos, hlt]

theorem phaseAfter_ne_faulted (i : Instr) : phaseAfter i ≠ .faulted := by cases i <;> simp [phaseAfter]

/-- Every command of a block that is not faulted leaves a coherent status, whatever `ERRCODE` was. -/
theorem exec_coherent {i : Instr} {s t : State} (hf : s.fault = false) (hp : s.phase ≠ .faulted)
    (h : exec i s = .next t) : Coherent t := by
  by_cases ha : Allowed i s.phase
  · obtain ⟨u, hu, hc⟩ := exec_checked hf ha
    cases h.symm.trans hu
    obtain ⟨code, info, hr, rfl⟩ | ⟨-, viol, hv, h0, rfl⟩ | ⟨-, -, e, outw, outb, rfl⟩ := hc
    · exact coherent_of_rangeError hf hp ha hr
    · exact coherent_violated s h0 (lt_16_of_violOf hv)
    · exact coherent_finished (s := { s with phase := phaseAfter i }) hf (phaseAfter_ne_faulted i) e outw outb
  · cases h.symm.trans (exec_of_not_allowed hf ha)
    exact coherent_phaseError hf hp

theorem phase_ne_faulted_of_coherent {s : State} (h : Coherent s) (hf : s.fault = false) : s.phase ≠ .faulted := by
  obtain ⟨hp, -⟩ := h
  intro hfaulted
  rw [hp.mpr hfaulted] at hf
  cases hf

theorem request_keeps_coherent {s t : State} {r : Request} {rest : List HostEvent} (hc : Coherent s)
    (hi : s.inbox = .request r :: rest) (h : step s = .next t) : Coherent t := by
  cases hf : s.fault with
  | true =>
    cases h.symm.trans (step_of_request_of_fault hf hi)
    exact coherent_congr hc rfl rfl rfl rfl rfl
  | false =>
    have hp := phase_ne_faulted_of_coherent hc hf
    cases hd : decode r.cw with
    | ok i =>
      have hexec := (step_of_decoded hi hd).symm.trans h
      exact exec_coherent (s := { s with inbox := rest, din := r.ports }) hf hp hexec
    | error e =>
      cases h.symm.trans (step_of_not_decoded hi hf hd)
      exact coherent_illegalCommand (s := { s with inbox := rest }) hf hp _

/-- Settles O41: a request leaves a coherent status by the kind of its answer, hard reset sets one, and the side port
and a silent host leave it alone. -/
theorem everyStepKeepsTheStatusCoherent : Obligations.EveryStepKeepsTheStatusCoherent := by
  intro s t hc h
  have hdin : s.din = noPorts := by
    obtain ⟨-, -, -, -, -, -, -, -, hd⟩ := hc
    exact hd
  obtain ⟨-, rfl⟩ | ⟨rest, -, rfl⟩ | ⟨num, rest, -, rfl⟩ | ⟨num, v, rest, -, rfl⟩ | ⟨r, rest, hi⟩ := step_or_request h
  · exact hc
  · simp [Coherent]
  · exact coherent_congr hc rfl rfl rfl rfl hdin
  · exact coherent_congr hc rfl rfl rfl rfl hdin
  · exact request_keeps_coherent hc hi h

/-- Settles O42: the fields of the reset state. -/
theorem theResetStateIsCoherent : Obligations.TheResetStateIsCoherent := by
  unfold Obligations.TheResetStateIsCoherent
  decide

/-! ### The dispatch of a step -/

/-- Settles O6: the rule of a step on a request whose word decodes. -/
theorem stepRunsTheDecodedCommand : Obligations.StepRunsTheDecodedCommand :=
  fun _ _ _ _ hi hd => step_of_decoded hi hd

theorem step_answers (s : State) : ∃ t, step s = .next t := by
  match hi : s.inbox with
  | [] => exact ⟨_, step_of_silence hi⟩
  | .hardReset :: rest => exact ⟨_, step_of_hardReset hi⟩
  | .readReg num :: rest => exact ⟨_, step_of_readReg hi⟩
  | .writeReg num v :: rest => exact ⟨_, step_of_writeReg hi⟩
  | .request r :: rest =>
    cases hd : decode r.cw with
    | ok i =>
      obtain ⟨t, ht, -⟩ := exec_left i { s with inbox := rest, din := r.ports }
      exact ⟨t, (step_of_decoded hi hd).trans ht⟩
    | error e =>
      cases hf : s.fault with
      | true => exact ⟨_, step_of_request_of_fault hf hi⟩
      | false => exact ⟨_, step_of_not_decoded hi hf hd⟩

/-- Settles O7: each thing the host can present has its rule. -/
theorem everyStepAnswersANextState : Obligations.EveryStepAnswersANextState :=
  ⟨step_answers, fun _ h => step_of_silence h⟩

/-! ### The straps and the frame of a command -/

theorem sameStraps_of_left {s t : State} (h : Left s t) : SameStraps s t := by
  obtain ⟨-, rfl⟩ | ⟨-, code, info, -, -, -, rfl⟩ | ⟨-, viol, -, rfl⟩ | ⟨-, e, p, outw, outb, -, rfl⟩ := h
  all_goals exact ⟨rfl, rfl, rfl⟩

/-- Settles O43: a request ends in one of the four ways of `Left`, and no other event writes a strap. -/
theorem strapsNeverChange : Obligations.StrapsNeverChange := by
  intro s t h
  obtain ⟨-, rfl⟩ | ⟨rest, -, rfl⟩ | ⟨num, rest, -, rfl⟩ | ⟨num, v, rest, -, rfl⟩ | ⟨r, rest, hi⟩ := step_or_request h
  · exact ⟨rfl, rfl, rfl⟩
  · exact ⟨rfl, rfl, rfl⟩
  · exact ⟨rfl, rfl, rfl⟩
  · exact ⟨rfl, rfl, rfl⟩
  · obtain ⟨ho, hn, hc⟩ := sameStraps_of_left (left_of_step_request hi h)
    exact ⟨ho, hn, hc⟩

/-- Settles O44: by the four ways a command can end. -/
theorem commandsLeaveTheRestAlone : Obligations.CommandsLeaveTheRestAlone := by
  intro i s
  obtain ⟨t, ht, hl⟩ := exec_left i s
  have hstraps := sameStraps_of_left hl
  obtain ⟨-, rfl⟩ | ⟨-, code, info, -, -, -, rfl⟩ | ⟨-, viol, -, rfl⟩ | ⟨-, e, p, outw, outb, -, rfl⟩ := hl
  · exact ⟨_, _, ht, rfl, rfl, rfl, hstraps, rfl, fun _ => ⟨rfl, rfl⟩, fun _ _ => ⟨rfl, rfl⟩⟩
  · exact ⟨_, _, ht, rfl, rfl, rfl, hstraps, rfl, fun _ => ⟨rfl, rfl⟩, fun _ _ => ⟨rfl, rfl⟩⟩
  · exact ⟨_, _, ht, rfl, rfl, rfl, hstraps, rfl, fun h => absurd rfl h, fun h => absurd rfl h⟩
  · exact ⟨_, _, ht, rfl, rfl, rfl, hstraps, rfl, fun _ => ⟨rfl, rfl⟩, fun _ h => absurd rfl h⟩

/-! ### CONTRACT_VIOLATION (R234) -/

/-- Settles O34: an allowed command in range goes on to the contract check, whose byte the data fixes; `FAULT` is
cleared by a hard reset only. -/
theorem contractViolationIsFatal : Obligations.ContractViolationIsFatal := by
  refine ⟨fun i s viol hf ha hr hv h0 => ?_, fun s t hf hn h => ?_⟩
  · obtain ⟨t, ht, hc⟩ := exec_checked hf ha
    refine ⟨t, ht, ?_⟩
    obtain ⟨code, info, hr', -⟩ | ⟨-, viol', hv', -, rfl⟩ | ⟨-, hv', -⟩ := hc
    · exact absurd hr' (hr _ _)
    · obtain rfl := violOf_unique hv hv'
      exact violated_raiseError viol s
    · exact absurd (violOf_unique hv hv') h0
  · by_contra ht
    obtain ⟨rest, hi⟩ := hardReset_of_fault_cleared h hf (Bool.eq_false_iff.mpr ht)
    exact hn rest hi

/-! ### The registers (R29) -/

/-- Fields side by side weigh in by the width below them. -/
theorem toNat_append_eq_add {m n : Nat} (x : BitVec m) (y : BitVec n) :
    (x ++ y).toNat = 2 ^ n * x.toNat + y.toNat := by
  rw [BitVec.toNat_append, Nat.shiftLeft_eq, Nat.mul_comm, Nat.two_pow_add_eq_or_of_lt y.isLt]

theorem orderBit_toNat (o : WordOrder) : (orderBit o).toNat = orderNumber o := by cases o <;> rfl

theorem codeBits_toNat (c : ErrCode) : (codeBits c).toNat = codeNumber c := by cases c <;> rfl

theorem phaseBits_toNat (p : Phase) : (phaseBits p).toNat = phaseNumber p := by cases p <;> rfl

theorem configReg_toNat (s : State) : (configReg s).toNat = orderNumber s.order + 256 * s.nblank.toNat := by
  simp only [configReg, toNat_append_eq_add, orderBit_toNat, BitVec.toNat_ofNat]
  omega

theorem statusReg_toNat (s : State) :
    (statusReg s).toNat =
      phaseNumber s.phase + 8 * s.fault.toNat + 16 * codeNumber s.errcode + 256 * s.errinfo.toNat := by
  simp only [statusReg, toNat_append_eq_add, phaseBits_toNat, codeBits_toNat, BitVec.toNat_ofBool, BitVec.toNat_ofNat]
  omega

theorem regValue_eq (num : Nat) (s : State) :
    regValue num s = if num = 0 then configReg s else if num = 1 then statusReg s else 0 := by
  match num with
  | 0 => rfl
  | 1 => rfl
  | n + 2 => rfl

/-- Settles O40: the layout is the sum of the fields by their weights; reads and writes are the rules of a step. -/
theorem registersReadAsLaidOut : Obligations.RegistersReadAsLaidOut := by
  refine ⟨fun s => ⟨configReg_toNat s, statusReg_toNat s⟩, fun s num rest hi => ?_,
    fun s num v rest hi => step_of_writeReg hi, by decide⟩
  rw [step_of_readReg hi, regValue_eq]

/-! ### How much a command answers (20_memory.md section 3) -/

/-- A success left `n` Blocks and `m` bytes, and an error left nothing. -/
def Gives (n m : Nat) (t : State) : Prop :=
  ∀ a : Response, t.resp = some a →
    (a.code ≠ .ok → a.outw = [] ∧ a.outb = []) ∧ (a.code = .ok → a.outw.length = n ∧ a.outb.length = m)

theorem gives_raiseError {code : ErrCode} (h : code ≠ .ok) (n m : Nat) (info : BitVec 8) (s : State) :
    Gives n m (raiseError code info s) := by
  have hr : (raiseError code info s).resp = some ⟨code, info, [], []⟩ := by cases code <;> rfl
  intro a ha
  cases hr.symm.trans ha
  exact ⟨fun _ => ⟨rfl, rfl⟩, fun hok => absurd hok h⟩

theorem gives_succeed {n m : Nat} {outw : List Block} {outb : List Byte} (hn : outw.length = n) (hm : outb.length = m)
    (s : State) : Gives n m (succeed outw outb s) := by
  intro a ha
  cases ha
  exact ⟨fun h => absurd rfl h, fun _ => ⟨hn, hm⟩⟩

theorem gives_unlessFaulted {n m : Nat} {body : State → State} {s : State} (h : Gives n m (body s)) :
    Gives n m (unlessFaulted body s) := by
  rw [unlessFaulted]
  split
  · exact gives_raiseError (by decide) n m 0 s
  · exact h

theorem gives_inPhase {n m : Nat} (p : Phase) {body : State → State} {s : State} (h : Gives n m (body s)) :
    Gives n m (inPhase p body s) := by
  obtain ⟨-, e⟩ | ⟨-, -, e⟩ | ⟨-, -, e⟩ := inPhase_cases p body s <;> rw [e]
  · exact gives_raiseError (by decide) n m _ s
  · exact gives_raiseError (by decide) n m _ s
  · exact h

theorem gives_unlessViol {n m : Nat} (viol : BitVec 8) {body : State → State} {s : State} (h : Gives n m (body s)) :
    Gives n m (unlessViol viol body s) := by
  rw [unlessViol]
  split
  · exact h
  · exact gives_raiseError (by decide) n m _ s

theorem runOf_length (pull : Bool) (l : List StepInput) (s : State) :
    (runOf pull l s).2.length = if pull then l.length else 0 := by
  cases pull
  · rw [runOf, engineRun_quiet]
    rfl
  · exact engineRun_pulled_length _ l s.eng

theorem gives_iterate (P O K : Bool) (nk count : Nat) (s : State) :
    Gives (if O then count else 0) 0 (iterate P O K nk count s) := by
  refine gives_inPhase _ (gives_unlessViol _ (gives_succeed ?_ rfl _))
  rw [runOf_length, iterInputs_length]

theorem flatMap_blockToBytes_length (o : WordOrder) (l : List Block) :
    (l.flatMap (blockToBytes o)).length = 32 * l.length := by
  simp [List.length_flatMap, Nat.mul_comm]

theorem gives_hashFinal (n : BitVec 16) (s t : State) (h : exec (.hashFinal n) s = .next t) : Gives 0 n.toNat t := by
  cases h
  refine gives_inPhase _ ?_
  split
  case isTrue hn =>
    refine gives_unlessViol _ (gives_succeed rfl ?_ _)
    rw [List.length_take, flatMap_blockToBytes_length, runOf_length, if_pos rfl]
    exact Nat.min_eq_left (truncOk_iff.mp hn).2
  case isFalse => exact gives_raiseError (by decide) _ _ _ s

theorem gives_cipherInit (ivlen : BitVec 8) (klen : BitVec 16) (s t : State)
    (h : exec (.cipherInit ivlen klen) s = .next t) : Gives 0 0 t := by
  cases h
  refine gives_unlessFaulted ?_
  split
  · split
    · exact gives_unlessViol _ (gives_succeed rfl rfl _)
    · exact gives_raiseError (by decide) _ _ _ s
  · exact gives_raiseError (by decide) _ _ _ s

theorem gives_cipherKs (count : BitVec 16) (s t : State) (h : exec (.cipherKs count) s = .next t) :
    Gives 0 (32 * count.toNat) t := by
  cases h
  refine gives_inPhase _ (gives_succeed rfl ?_ _)
  rw [flatMap_blockToBytes_length, runOf_length, if_pos rfl, emptyInputs_length]

/-- Settles O45: errors answer nothing, and a success answers the outputs of its run. -/
theorem responsesHaveTheStatedLengths : Obligations.ResponsesHaveTheStatedLengths := by
  intro i s t a h ha
  cases i
  case reset | hashInit =>
    cases h
    refine gives_unlessFaulted ?_ a ha
    exact gives_succeed rfl rfl _
  case hashBlock =>
    cases h
    refine gives_inPhase _ (gives_unlessViol _ ?_) a ha
    exact gives_succeed rfl rfl _
  case hashFinal n => exact gives_hashFinal n s t h a ha
  case cipherInit ivlen klen => exact gives_cipherInit ivlen klen s t h a ha
  case cipherKs count => exact gives_cipherKs count s t h a ha
  all_goals
    cases h
    exact gives_iterate _ _ _ _ _ s a ha

end Sys2Proof.StepProofs

/-! ### What no answer depends on: states alike but for the engine, run side by side (10_state.md R25, R32;
60_exceptions.md R234) -/

namespace Sys2Proof.AlikeProofs

open Sys2Proof.Machine Sys2Proof.Safety Sys2Proof.Claims Sys2Proof.StatusProofs Sys2Proof.EngineProofs
  Sys2Proof.HashProofs Sys2Proof.ExceptionProofs Sys2Proof.StepProofs

/-! ### Engines that no step tells apart -/

/-- `E` relates equal engines, steps keep it, and related engines have one tap. -/
structure Indistinct (E : Engine → Engine → Prop) : Prop where
  refl : ∀ e, E e e
  step : ∀ (cfg : Cfg) (i : StepInput) {e e' : Engine}, E e e' →
    E (engineStep cfg i false e).1 (engineStep cfg i false e').1
  tap : ∀ (cfg : Cfg) {e e' : Engine}, E e e' → tapOf cfg e' = tapOf cfg e

theorem indistinct_eq : Indistinct Eq := by
  refine ⟨fun _ => rfl, fun _ _ => ?_, fun _ => ?_⟩ <;> rintro e _ rfl <;> rfl

section Sim
variable {E : Engine → Engine → Prop} (hE : Indistinct E)
include hE

theorem engineStep_out_of_indistinct (cfg : Cfg) (i : StepInput) (pull : Bool) {e e' : Engine} (h : E e e') :
    (engineStep cfg i pull e').2 = (engineStep cfg i pull e).2 := by
  have htap := hE.tap cfg h
  rw [tapOf_eq, tapOf_eq] at htap
  rw [engineStep_out, engineStep_out, htap]

/-- Runs from related engines end in related engines and give the same Blocks. -/
theorem engineRun_of_indistinct (cfg : Cfg) (pull : Bool) (l : List StepInput) {e e' : Engine} (h : E e e') :
    E (engineRun cfg pull l e).1 (engineRun cfg pull l e').1 ∧
      (engineRun cfg pull l e').2 = (engineRun cfg pull l e).2 := by
  induction l generalizing e e' with
  | nil => exact ⟨h, rfl⟩
  | cons i l ih =>
    obtain ⟨heng, hout⟩ := ih (hE.step cfg i h)
    rw [engineRun_cons, engineRun_cons, engineStep_pull cfg i pull false, engineStep_pull cfg i pull false, hout,
      engineStep_out_of_indistinct hE cfg i pull h]
    exact ⟨heng, rfl⟩

end Sim

/-! ### A command run from two states at once -/

/-- What a command reads of the state beside the engine. -/
structure Agree (s s' : State) : Prop where
  fault : s'.fault = s.fault
  phase : s'.phase = s.phase
  order : s'.order = s.order
  nblank : s'.nblank = s.nblank
  cfg : s'.cfg = s.cfg
  din : s'.din = s.din

/-- From `s` to `t` and from `s'` to `t'` the command ended in the same way, with related engines if it succeeded. -/
def LeftAlike (E : Engine → Engine → Prop) (s s' t t' : State) : Prop :=
  (s.fault = true ∧ t = refusedState s ∧ t' = refusedState s') ∨
  (s.fault = false ∧ ∃ code info, t = failed s code info ∧ t' = failed s' code info) ∨
  (s.fault = false ∧ ∃ viol, t = raiseError .contractViolation viol s ∧
    t' = raiseError .contractViolation viol s') ∨
  (s.fault = false ∧ ∃ p e e' outw outb, E e e' ∧ t = finished { s with phase := p } e outw outb ∧
    t' = finished { s' with phase := p } e' outw outb)

section Exec
variable {E : Engine → Engine → Prop} {s s' : State}

theorem leftAlike_failed (hf : s.fault = false) (code : ErrCode) (info : BitVec 8) :
    LeftAlike E s s' (failed s code info) (failed s' code info) := .inr (.inl ⟨hf, code, info, rfl, rfl⟩)

theorem leftAlike_finished (hf : s.fault = false) (p : Phase) {e e' : Engine} (he : E e e') {outw outw' : List Block}
    {outb outb' : List Byte} (hw : outw' = outw) (hb : outb' = outb) :
    LeftAlike E s s' (finished { s with phase := p } e outw outb) (finished { s' with phase := p } e' outw' outb') := by
  subst hw hb
  exact .inr (.inr (.inr ⟨hf, p, e, e', outw', outb', he, rfl, rfl⟩))

theorem leftAlike_unlessViol (hf : s.fault = false) {viol viol' : BitVec 8} (hv : viol' = viol)
    {body : State → State} (h : LeftAlike E s s' (body s) (body s')) :
    LeftAlike E s s' (unlessViol viol body s) (unlessViol viol' body s') := by
  subst hv
  by_cases h0 : viol' = 0
  · rw [h0, unlessViol_zero, unlessViol_zero]
    exact h
  · rw [unlessViol_bad _ _ _ h0, unlessViol_bad _ _ _ h0]
    exact .inr (.inr (.inl ⟨hf, viol', rfl, rfl⟩))

section
variable (ha : Agree s s')
include ha

theorem leftAlike_finished_same (hf : s.fault = false) {e e' : Engine} (he : E e e') {outw outw' : List Block}
    {outb outb' : List Byte} (hw : outw' = outw) (hb : outb' = outb) :
    LeftAlike E s s' (finished s e outw outb) (finished s' e' outw' outb') := by
  rw [finished_same_phase ha.phase]
  exact leftAlike_finished hf s.phase he hw hb

theorem leftAlike_unlessFaulted {body : State → State}
    (h : s.fault = false → LeftAlike E s s' (body s) (body s')) :
    LeftAlike E s s' (unlessFaulted body s) (unlessFaulted body s') := by
  cases hf : s.fault with
  | true =>
    rw [unlessFaulted_faulted _ s hf, unlessFaulted_faulted _ s' (ha.fault.trans hf)]
    exact .inl ⟨hf, rfl, rfl⟩
  | false =>
    rw [unlessFaulted_ok _ s hf, unlessFaulted_ok _ s' (ha.fault.trans hf)]
    exact h hf

theorem leftAlike_inPhase (p : Phase) {body : State → State}
    (h : s.fault = false → LeftAlike E s s' (body s) (body s')) :
    LeftAlike E s s' (inPhase p body s) (inPhase p body s') := by
  refine leftAlike_unlessFaulted ha fun hf => ?_
  rw [ha.phase]
  split
  · exact h hf
  · exact leftAlike_failed hf _ _

variable (hE : Indistinct E) (he : E s.eng s'.eng)
include hE he

theorem runOf_alike (pull : Bool) (l : List StepInput) :
    E (runOf pull l s).1 (runOf pull l s').1 ∧ (runOf pull l s').2 = (runOf pull l s).2 := by
  rw [runOf, runOf, ha.cfg]
  exact engineRun_of_indistinct hE _ pull l he

theorem leftAlike_iterate (P O K : Bool) (nk count : Nat) :
    LeftAlike E s s' (iterate P O K nk count s) (iterate P O K nk count s') := by
  refine leftAlike_inPhase ha _ fun hf => leftAlike_unlessViol hf (by rw [ha.din]) ?_
  rw [ha.din]
  obtain ⟨heng, hout⟩ := runOf_alike ha hE he O (iterInputs P K nk count s.din)
  exact leftAlike_finished_same ha hf heng hout rfl

theorem pushMessage_alike : E (pushMessage s).eng (pushMessage s').eng := by
  rw [pushMessage_eng, pushMessage_eng, messageBlock, messageBlock, ha.din, ha.order]
  exact (runOf_alike ha hE he false _).1

theorem leftAlike_extractDigest (hf : s.fault = false) (n : Nat) :
    LeftAlike E s s' (extractDigest n (pushMessage s)) (extractDigest n (pushMessage s')) := by
  have hpush := pushMessage_alike ha hE he
  rw [extractDigest_pushMessage, extractDigest_pushMessage]
  refine leftAlike_finished hf _ ?_ rfl ?_
  · rw [finalizedEngine, finalizedEngine, ha.cfg]
    exact hE.step _ _ hpush
  · rw [digestBlock, digestBlock, ha.cfg, ha.order, hE.tap _ hpush]

omit he in
theorem leftAlike_absorbKey (hf : s.fault = false) : LeftAlike E s s' (absorbKey s) (absorbKey s') := by
  have hzero : Agree (zeroEngine s) (zeroEngine s') := ⟨ha.fault, ha.phase, ha.order, ha.nblank, ha.cfg, ha.din⟩
  rw [absorbKey, absorbKey, ha.din, ha.order, ha.nblank]
  exact leftAlike_finished hf .cipherReady (runOf_alike hzero hE (hE.refl _) false _).1 rfl rfl

/-- A command run from two states that agree, with related engines, ends in the same way. -/
theorem exec_alike (i : Instr) :
    ∃ t t', exec i s = .next t ∧ exec i s' = .next t' ∧ LeftAlike E s s' t t' := by
  cases i
  case reset | hashInit =>
    refine ⟨_, _, rfl, rfl, leftAlike_unlessFaulted ha fun hf => ?_⟩
    exact leftAlike_finished hf _ (hE.refl _) rfl rfl
  case hashBlock =>
    refine ⟨_, _, rfl, rfl, leftAlike_inPhase ha _ fun hf => leftAlike_unlessViol hf (by rw [ha.din]) ?_⟩
    exact leftAlike_finished_same ha hf (pushMessage_alike ha hE he) rfl rfl
  case hashFinal n =>
    refine ⟨_, _, rfl, rfl, leftAlike_inPhase ha _ fun hf => ?_⟩
    split
    · exact leftAlike_unlessViol hf (by rw [ha.din]) (leftAlike_extractDigest ha hE he hf n.toNat)
    · exact leftAlike_failed hf _ _
  case cipherInit ivlen klen =>
    refine ⟨_, _, rfl, rfl, leftAlike_unlessFaulted ha fun hf => ?_⟩
    split
    · split
      · exact leftAlike_unlessViol hf (by rw [ha.din]) (leftAlike_absorbKey ha hE hf)
      · exact leftAlike_failed hf _ _
    · exact leftAlike_failed hf _ _
  case cipherKs count =>
    refine ⟨_, _, rfl, rfl, leftAlike_inPhase ha _ fun hf => ?_⟩
    obtain ⟨heng, hout⟩ := runOf_alike ha hE he true (emptyInputs count.toNat)
    exact leftAlike_finished_same ha hf heng rfl (by rw [hout, ha.order])
  all_goals exact ⟨_, _, rfl, rfl, leftAlike_iterate ha hE he _ _ _ _ _⟩

end

theorem leftAlike_illegalCommand (ha : Agree s s') (cw : Word) :
    LeftAlike E s s' (illegalCommand cw s) (illegalCommand cw s') :=
  leftAlike_unlessFaulted ha fun hf => leftAlike_failed hf _ _

/-- A request taken in two states that agree but for old data at the ports, with related engines, ends in the same
way. -/
theorem step_request_alike (hE : Indistinct E) {r : Request} {rest : List HostEvent}
    (hi : s.inbox = .request r :: rest) (hi' : s'.inbox = .request r :: rest)
    (ha : Agree (setDin r.ports (setInbox rest s)) (setDin r.ports (setInbox rest s'))) (he : E s.eng s'.eng) :
    ∃ t t', step s = .next t ∧ step s' = .next t' ∧
      LeftAlike E (setDin r.ports (setInbox rest s)) (setDin r.ports (setInbox rest s')) t t' := by
  rw [step, step, hi, hi']
  dsimp only
  cases decode r.cw with
  | ok i => exact exec_alike ha hE he i
  | error e => exact ⟨_, _, rfl, rfl, leftAlike_illegalCommand ha r.cw⟩

end Exec

/-! ### A step from two states with related engines -/

/-- A register read shows CONFIG, STATUS or 0. -/
theorem regValue_congr {s s' : State} (num : Nat) (hc : configReg s' = configReg s) (hs : statusReg s' = statusReg s) :
    regValue num s' = regValue num s := by
  rw [regValue_eq, regValue_eq, hc, hs]

/-- Same state but for the engine, and the engines are related. -/
def AlikeBut (E : Engine → Engine → Prop) (s s' : State) : Prop := { s' with eng := s.eng } = s ∧ E s.eng s'.eng

theorem alikeBut_setEng {E : Engine → Engine → Prop} (s : State) {e : Engine} (h : E s.eng e) :
    AlikeBut E s { s with eng := e } := ⟨rfl, h⟩

theorem eq_setEng_of_alikeBut {E : Engine → Engine → Prop} {s s' : State} (h : AlikeBut E s s') :
    s' = { s with eng := s'.eng } := congrArg (fun u : State => { u with eng := s'.eng }) h.1

/-- What a request leaves does not show its data, which is gone from the ports. -/
theorem alikeBut_of_leftAlike {E : Engine → Engine → Prop} (hE : Indistinct E) {s t t' : State} {e : Engine}
    (he : E s.eng e) {d : Ports} {l : List HostEvent}
    (h : LeftAlike E (setDin d (setInbox l s)) (setDin d (setInbox l { s with eng := e })) t t') :
    AlikeBut E t t' := by
  obtain ⟨-, rfl, rfl⟩ | ⟨-, code, info, rfl, rfl⟩ | ⟨-, viol, rfl, rfl⟩ |
    ⟨-, p, e1, e2, outw, outb, h12, rfl, rfl⟩ := h
  · exact ⟨rfl, he⟩
  · exact ⟨rfl, he⟩
  · exact ⟨rfl, hE.refl _⟩
  · exact ⟨rfl, h12⟩

/-- Whatever the host presents, states alike but for related engines step to such states. -/
theorem step_keeps_alikeBut {E : Engine → Engine → Prop} (hE : Indistinct E) {s s' t : State} (h : AlikeBut E s s')
    (hs : step s = .next t) : ∃ t', step s' = .next t' ∧ AlikeBut E t t' := by
  have he : E s.eng s'.eng := h.2
  rw [eq_setEng_of_alikeBut h]
  generalize s'.eng = e at he
  obtain ⟨hi, rfl⟩ | ⟨rest, hi, rfl⟩ | ⟨num, rest, hi, rfl⟩ | ⟨num, v, rest, hi, rfl⟩ | hr := step_or_request hs
  · exact ⟨_, step_of_silence hi, alikeBut_setEng t he⟩
  · exact ⟨_, step_of_hardReset hi, rfl, hE.refl _⟩
  · refine ⟨_, step_of_readReg hi, ?_, he⟩
    exact congrArg (fun v => setRdata v (setInbox rest s)) (regValue_congr num rfl rfl)
  · exact ⟨_, step_of_writeReg hi, rfl, he⟩
  · obtain ⟨r, rest, hi⟩ := hr
    obtain ⟨u, u', hu, hu', hl⟩ :=
      step_request_alike (s' := { s with eng := e }) hE hi hi ⟨rfl, rfl, rfl, rfl, rfl, rfl⟩ he
    cases hs.symm.trans hu
    exact ⟨u', hu', alikeBut_of_leftAlike hE he hl⟩

/-! ### The scratch half (R32) -/

/-- The engines are the same but for the scratch half. -/
def SameButScratch (e e' : Engine) : Prop := e'.a = e.a ∧ e'.b = e.b ∧ e'.bstart = e.bstart

theorem logical_of_sameButScratch {e e' : Engine} (h : SameButScratch e e') : e'.logical = e.logical := by
  obtain ⟨-, hb, hc⟩ := h
  rw [Engine.logical, Engine.logical, hb, hc]

theorem indistinct_sameButScratch : Indistinct SameButScratch := by
  refine ⟨fun _ => ⟨rfl, rfl, rfl⟩, fun cfg i e e' h => ?_, fun cfg e e' h => ?_⟩
  · have hl := logical_of_sameButScratch h
    obtain ⟨ha, -, hc⟩ := h
    refine ⟨?_, ?_, ?_⟩ <;> simp only [engineStep, ha, hc, hl]
  · rw [tapOf_eq, tapOf_eq, logical_of_sameButScratch h, h.1]

theorem withC_eq_of_alikeBut {s s' : State} (h : AlikeBut SameButScratch s s') (x : Acc) : withC x s' = withC x s := by
  have hs := eq_setEng_of_alikeBut h
  obtain ⟨-, ha, hb, hc⟩ := h
  have he : ({ s'.eng with c := x } : Engine) = { s.eng with c := x } := by simp only [ha, hb, hc]
  exact (congrArg (withC x) hs).trans (congrArg (fun e => { s with eng := e }) he)

/-- Settles O46: the four functions of a record do not read the scratch half, so engines that differ in it alone are
indistinct. -/
theorem noAnswerDependsOnTheScratchHalf : Obligations.NoAnswerDependsOnTheScratchHalf := by
  intro s x
  obtain ⟨t, ht⟩ := step_answers s
  have h : AlikeBut SameButScratch s (withC x s) := alikeBut_setEng s ⟨rfl, rfl, rfl⟩
  obtain ⟨t', ht', hl⟩ := step_keeps_alikeBut indistinct_sameButScratch h ht
  exact ⟨t, t', ht, ht', withC_eq_of_alikeBut hl x⟩

/-! ### The physical slots (R25) -/

/-- The engines show the same words under their cursors. -/
def SameWords (e e' : Engine) : Prop := e'.a = e.a ∧ e'.c = e.c ∧ view e' = view e

theorem indistinct_sameWords : Indistinct SameWords := by
  refine ⟨fun _ => ⟨rfl, rfl, rfl⟩, fun cfg i e e' h => ?_, fun cfg e e' h => ?_⟩
  · obtain ⟨ha, -, hv⟩ := h
    rw [view_eq_logical, view_eq_logical] at hv
    rw [SameWords, view_eq_logical, view_eq_logical]
    simp [ha, hv]
  · obtain ⟨ha, -, hv⟩ := h
    rw [view_eq_logical, view_eq_logical] at hv
    rw [tapOf_eq, tapOf_eq, ha, hv]

/-- Settles O47: a step reads the history through its logical view, so engines with one view are indistinct. -/
theorem noCommandSeesPhysicalSlots : Obligations.NoCommandSeesPhysicalSlots :=
  fun _ _ _ h hs => step_keeps_alikeBut indistinct_sameWords h hs

/-! ### The unspecified values of a fault (R234) -/

theorem eq_of_sameButUnspecified {s s' : State} (h : SameButUnspecified s s') :
    s' = { s with eng := s'.eng, draws := s'.draws } :=
  congrArg (fun u : State => { u with eng := s'.eng, draws := s'.draws }) h.1

/-- While `FAULT = 0` only the count of values to come may differ, and a command does not read it. -/
theorem sameButUnspecified_of_leftAlike {s t t' : State} {n : Nat} {d : Ports} {l : List HostEvent}
    (h : LeftAlike Eq (setDin d (setInbox l s)) (setDin d (setInbox l { s with draws := n })) t t') :
    SameButUnspecified t t' := by
  obtain ⟨-, rfl, rfl⟩ | ⟨-, code, info, rfl, rfl⟩ | ⟨-, viol, rfl, rfl⟩ |
    ⟨-, p, e, _, outw, outb, rfl, rfl, rfl⟩ := h
  · exact ⟨rfl, fun _ => rfl⟩
  · exact ⟨rfl, fun _ => rfl⟩
  · exact ⟨rfl, nofun⟩
  · exact ⟨rfl, fun _ => rfl⟩

theorem request_keeps_sameButUnspecified {s t : State} {r : Request} {rest : List HostEvent} {e : Engine} (n : Nat)
    (he : s.fault = false → e = s.eng) (hi : s.inbox = .request r :: rest) (hs : step s = .next t) :
    ∃ t', step { s with eng := e, draws := n } = .next t' ∧ SameButUnspecified t t' := by
  rcases Bool.eq_false_or_eq_true s.fault with hf | hf
  · cases hs.symm.trans (step_of_request_of_fault hf hi)
    exact ⟨_, step_of_request_of_fault hf hi, rfl, he⟩
  · obtain rfl := he hf
    obtain ⟨u, u', hu, hu', hl⟩ :=
      step_request_alike (s' := { s with draws := n }) indistinct_eq hi hi ⟨rfl, rfl, rfl, rfl, rfl, rfl⟩ rfl
    cases hs.symm.trans hu
    exact ⟨u', hu', sameButUnspecified_of_leftAlike hl⟩

theorem step_keeps_sameButUnspecified {s s' t : State} (h : SameButUnspecified s s') (hs : step s = .next t) :
    ∃ t', step s' = .next t' ∧ SameButUnspecified t t' := by
  have he : s.fault = false → s'.eng = s.eng := h.2
  rw [eq_of_sameButUnspecified h]
  generalize s'.eng = e at he
  obtain ⟨hi, rfl⟩ | ⟨rest, hi, rfl⟩ | ⟨num, rest, hi, rfl⟩ | ⟨num, v, rest, hi, rfl⟩ | ⟨r, rest, hi⟩ :=
    step_or_request hs
  · exact ⟨_, step_of_silence hi, rfl, he⟩
  · exact ⟨_, step_of_hardReset hi, rfl, fun _ => rfl⟩
  · refine ⟨_, step_of_readReg hi, ?_, he⟩
    exact congrArg (fun v => setRdata v (setInbox rest s)) (regValue_congr num rfl rfl)
  · exact ⟨_, step_of_writeReg hi, rfl, he⟩
  · exact request_keeps_sameButUnspecified _ he hi hs

/-- The response port and STATUS show nothing of the unspecified values. -/
theorem answers_of_sameButUnspecified {s s' : State} (h : SameButUnspecified s s') :
    s'.resp = s.resp ∧ statusReg s' = statusReg s := by
  rw [eq_of_sameButUnspecified h]
  exact ⟨rfl, rfl⟩

theorem run_keeps_sameButUnspecified (n : Nat) {s s' t : State} (h : SameButUnspecified s s')
    (hs : Host.Core.run core n s = .next t) : ∃ t', Host.Core.run core n s' = .next t' ∧ SameButUnspecified t t' := by
  induction n generalizing s s' with
  | zero =>
    cases hs
    exact ⟨s', rfl, h⟩
  | succ n ih =>
    obtain ⟨u, hu⟩ := step_answers s
    obtain ⟨u', hu', hl⟩ := step_keeps_sameButUnspecified h hu
    rw [run_succ hu] at hs
    rw [run_succ hu']
    exact ih hl hs

/-- Settles O37: a faulted block does not read its engine, and no command reads the count of free values; runs by
induction on their length. -/
theorem unspecifiedValuesAreNeverObserved : Obligations.UnspecifiedValuesAreNeverObserved := by
  refine ⟨fun s s' t h hs => step_keeps_sameButUnspecified h hs, fun n s s' t h hs => ?_⟩
  obtain ⟨t', ht', hl⟩ := run_keeps_sameButUnspecified n h hs
  exact ⟨t', ht', hl, answers_of_sameButUnspecified hl⟩

/-! ### Recoverable errors (R238, R239) -/

/-- A request to a block that is not faulted neither reads nor keeps what a failure wrote. -/
theorem step_forgets_failure {s : State} {r : Request} {rest : List HostEvent} (hf : s.fault = false)
    (hi : s.inbox = .request r :: rest) (code : ErrCode) (info : BitVec 8) :
    step (failed s code info) = step s := by
  obtain ⟨t, t', ht, ht', hl⟩ :=
    step_request_alike (s' := failed s code info) indistinct_eq hi hi ⟨rfl, rfl, rfl, rfl, rfl, rfl⟩ rfl
  rw [ht, ht']
  obtain ⟨hf', -⟩ | ⟨-, c, n, rfl, rfl⟩ | ⟨-, viol, rfl, rfl⟩ | ⟨-, p, e, _, outw, outb, rfl, rfl, rfl⟩ := hl
  · simp [hf] at hf'
  all_goals rfl

/-- A request that answers a recoverable error left what R230 says. -/
theorem failed_of_recoverable {s t : State} {r : Request} {rest : List HostEvent} {a : Response}
    (hi : s.inbox = .request r :: rest) (h : step s = .next t) (ha : t.resp = some a) (hr : Recoverable a.code) :
    s.fault = false ∧ t = failed { s with inbox := rest } a.code a.info := by
  obtain ⟨-, rfl⟩ | ⟨hf, code, info, -, -, -, rfl⟩ | ⟨-, viol, -, rfl⟩ | ⟨-, e, p, outw, outb, -, rfl⟩ :=
    left_of_step_request hi h
  · cases ha
    simp [Recoverable] at hr
  · cases ha
    exact ⟨hf, rfl⟩
  · cases ha
    simp [Recoverable] at hr
  · cases ha
    simp [Recoverable] at hr

/-- Settles O35: the error is `failed`, whose three fields the next command neither reads nor keeps. -/
theorem recoverableErrorsLeaveNoTrace : Obligations.RecoverableErrorsLeaveNoTrace := by
  intro s r rest t a hi h ha hr
  obtain ⟨hf, rfl⟩ := failed_of_recoverable hi h ha hr
  refine ⟨rfl, fun r' rest' hrest => ?_⟩
  exact step_forgets_failure (s := { s with inbox := rest }) hf hrest _ _

end Sys2Proof.AlikeProofs

/-! ### Addressing, the output tap and the reference record (20_memory.md R51; 40_engine.md R116;
41_reference_diffusion.md) -/

namespace Sys2Proof.DiffusionProofs

open Sys2Proof.Machine Sys2Proof.Claims Sys2Proof.StatusProofs Sys2Proof.EngineProofs

/-! ### Addressing (R51) -/

theorem logical_getElem (e : Engine) {j : Nat} (h : j < 32) : e.logical[j] = e.b[(e.bstart.val + j) % 32] :=
  logicalOf_getElem e.bstart e.b j h

/-- Settles O19: the logical view reads slot `(bstart + j) mod 32`, and the cursor moves by the stride. -/
theorem addressingIsCursorRelative : Obligations.AddressingIsCursorRelative := by
  refine ⟨fun e j => logical_getElem e j.isLt, fun e h => ?_, fun cfg i pull e h => ?_, fun cfg pull l e h => ?_⟩
  · rw [logical_getElem]
    simp [h]
  · apply Fin.ext
    rw [engineStep_bstart_val, h]
    rfl
  · exact bstart_eq_after_32_steps cfg pull h e

/-! ### The output tap (R116) -/

theorem tapsOf_getElem?_zero (cfg : Cfg) (es : Nat → Engine) {n : Nat} (h : 0 < n) :
    (tapsOf cfg es n)[0]? = some (tapOf cfg (es 0)) := by
  obtain ⟨m, rfl⟩ := Nat.exists_eq_add_of_le' h
  rw [tapsOf_succ]
  rfl

theorem tapOf_of_allZero (cfg : Cfg) {e : Engine} (h : AllZero e) : tapOf cfg e = cfg.tap zeroAcc zeroBlock := by
  obtain ⟨ha, -, hb, -⟩ := h
  have hacc : e.a = zeroAcc := by
    ext1 i hi
    rw [zeroAcc, Vector.getElem_replicate]
    exact ha ⟨i, hi⟩
  have hev : evicted e = zeroBlock := by
    ext1 i hi
    rw [zeroBlock, Vector.getElem_replicate]
    exact hb ⟨(e.bstart.val + 31) % 32, Nat.mod_lt _ (by decide)⟩ ⟨i, hi⟩
  rw [tapOf, hacc, hev]

@[simp] theorem outwOf_finished (s : State) (e : Engine) (outw : List Block) (outb : List Byte) :
    outwOf (finished s e outw outb) = outw := rfl

/-- The first Block of an ITERATE with `O` is the tap of the engine before it. -/
theorem runOf_getElem?_zero (l : List StepInput) (s : State) (h : 0 < l.length) :
    (runOf true l s).2[0]? = some (tapOf (cfgOf s.cfg) s.eng) := by
  rw [runOf, engineRun_pulled, tapsOf_getElem?_zero _ _ h]
  rfl

/-- Settles O14: the outputs of a run are the taps of the engines it goes through, the first of them the one it starts
from, and its engine does not depend on pulling. -/
theorem theOutputTapIsBeforeTheUpdate : Obligations.TheOutputTapIsBeforeTheUpdate := by
  refine ⟨fun P K nk count s hf hr hp hk => ?_, fun A ev i => refTap_getElem A ev i.val i.isLt⟩
  have hout : 0 < count.toNat →
      (runOf true (iterInputs P K nk.toNat count.toNat s.din) s).2[0]? = some (tapOf (cfgOf s.cfg) s.eng) :=
    fun h => runOf_getElem?_zero _ s (by rwa [iterInputs_length])
  refine ⟨_, _, exec_iterInstr_of_fits hf hr hp hk, exec_iterInstr_of_fits hf hr hp hk,
    engineRun_pull _ true false _ s.eng, hout, fun h h0 => ?_⟩
  rw [← tapOf_of_allZero _ h0]
  exact hout h

/-! ### Words and stages of the passes (R154, R155) -/

/-- The words of an accumulator by the way σ treats them: word 0, words 1 to 8, words 9 to 16 (R154). -/
theorem forall_acc_index {p : Fin 17 → Prop} (zero : p 0) (low : ∀ j : Fin 8, p ⟨j.val + 1, by omega⟩)
    (high : ∀ j : Fin 8, p ⟨j.val + 9, by omega⟩) (i : Fin 17) : p i := by
  rcases i with ⟨i, hi⟩
  by_cases hz : i = 0
  · subst hz
    exact zero
  by_cases h8 : i ≤ 8
  · obtain ⟨j, rfl⟩ := Nat.exists_eq_add_of_le' (Nat.pos_of_ne_zero hz)
    exact low ⟨j, h8⟩
  · obtain ⟨j, rfl⟩ := Nat.exists_eq_add_of_le' (not_le.mp h8)
    exact high ⟨j, by omega⟩

/-- The stages of a history by the way λ treats them: the head, stage 25, the rest (R155). -/
theorem forall_stage_index {p : Fin 32 → Prop} (head : p 0) (rewritten : p 25)
    (older : ∀ j : Fin 32, j.val ≠ 0 → j.val ≠ 25 → p j) (j : Fin 32) : p j := by
  by_cases hz : j = 0
  · exact hz ▸ head
  by_cases hr : j = 25
  · exact hr ▸ rewritten
  · exact older j (fun h => hz (Fin.ext h)) (fun h => hr (Fin.ext h))

/-! ### The push Block enters affinely (R113) -/

/-- The three-point law of an affine function over GF(2), for one that adds a constant. -/
theorem xor_affine {w : Nat} (t p q r : BitVec w) : t ^^^ (p ^^^ (q ^^^ r)) = t ^^^ p ^^^ (t ^^^ q) ^^^ (t ^^^ r) := by
  ext i hi
  simp only [BitVec.getElem_xor]
  cases t[i] <;> cases p[i] <;> simp

/-- The same law for a constant. -/
theorem xor_xor_self {w : Nat} (t : BitVec w) : t = t ^^^ t ^^^ t := by simp

theorem sigmaPass_affine (T : Acc) (H : History) (p q r : Block) (i : Fin 17) :
    (sigmaPass T H (some (xorBlock p (xorBlock q r))))[i] =
      (sigmaPass T H (some p))[i] ^^^ (sigmaPass T H (some q))[i] ^^^ (sigmaPass T H (some r))[i] := by
  induction i using forall_acc_index with
  | zero =>
    simp only [Fin.getElem_fin, Fin.val_zero, sigmaPass_zero]
    exact xor_xor_self _
  | low j =>
    simp only [Fin.getElem_fin, sigmaPass_low _ _ _ j.val j.isLt, Option.getD_some, xorBlock_getElem]
    exact xor_affine _ _ _ _
  | high j =>
    simp only [Fin.getElem_fin, sigmaPass_high _ _ _ j.val j.isLt]
    exact xor_xor_self _

theorem lambdaPass_affine (A : Acc) (H : History) (p q r : Block) (j : Fin 32) (i : Fin 8) :
    (lambdaPass A H (some (xorBlock p (xorBlock q r))))[j][i] =
      (lambdaPass A H (some p))[j][i] ^^^ (lambdaPass A H (some q))[j][i] ^^^ (lambdaPass A H (some r))[j][i] := by
  induction j using forall_stage_index with
  | head =>
    simp only [Fin.getElem_fin, Fin.val_zero, lambdaPass_head, Option.getD_some, xorBlock_getElem]
    exact xor_affine _ _ _ _
  | rewritten =>
    have h25 (x : Option Block) :
        (lambdaPass A H x)[(25 : Fin 32)][i] = H[24][i.val] ^^^ H[31][(i.val + 2) % 8] :=
      lambdaPass_rewritten A H x i.val i.isLt
    rw [h25, h25, h25, h25]
    exact xor_xor_self _
  | older j h0 h25 =>
    simp only [Fin.getElem_fin, lambdaPass_older _ _ _ j.val j.isLt h0 h25]
    exact xor_xor_self _

/-- Settles O16: σ and λ add the push Block to words that do not depend on it, and leave it out of all others. -/
theorem referencePushIsAffine : Obligations.ReferencePushIsAffine :=
  fun A H p q r => ⟨sigmaPass_affine _ H p q r, lambdaPass_affine A H p q r⟩

/-! ### Bits and lanes (41_reference_diffusion.md section 5) -/

section Bits
variable {A A' : Acc} {n : Nat} (h : ∀ i : Fin 17, A[i].getLsbD n = A'[i].getLsbD n)
include h

theorem getLsbD_congr {i : Nat} (hi : i < 17) : A[i].getLsbD n = A'[i].getLsbD n := h ⟨i, hi⟩

theorem gammaPass_bit_congr (i : Fin 17) : (gammaPass A)[i].getLsbD n = (gammaPass A')[i].getLsbD n := by
  simp only [Fin.getElem_fin, gammaPass_getElem, BitVec.getLsbD_xor, BitVec.getLsbD_or, BitVec.getLsbD_not,
    getLsbD_congr h]

theorem thetaPass_bit_congr (i : Fin 17) : (thetaPass A)[i].getLsbD n = (thetaPass A')[i].getLsbD n := by
  simp only [Fin.getElem_fin, thetaPass_getElem, BitVec.getLsbD_xor, getLsbD_congr h]

end Bits

theorem lambdaPass_lane_congr (A A' : Acc) {H H' : History} {p p' : Block} {l : Fin 8} (hp : p[l] = p'[l])
    (hH : ∀ j : Fin 32, H[j][l] = H'[j][l]) (j : Fin 32) (h25 : j ≠ 25) :
    (lambdaPass A H (some p))[j][l] = (lambdaPass A' H' (some p'))[j][l] := by
  by_cases h0 : j = 0
  · subst h0
    have h31 : H[31][l.val] = H'[31][l.val] := hH 31
    have hpl : p[l.val] = p'[l.val] := hp
    simp only [Fin.getElem_fin, Fin.val_zero, lambdaPass_head, Option.getD_some, xorBlock_getElem, h31, hpl]
  · have h0' : j.val ≠ 0 := fun h => h0 (Fin.ext h)
    have h25' : j.val ≠ 25 := fun h => h25 (Fin.ext h)
    simp only [Fin.getElem_fin, lambdaPass_older _ _ _ j.val j.isLt h0' h25']
    exact hH ⟨j.val - 1, by omega⟩

theorem lambdaPass_rewritten_congr (A A' : Acc) {H H' : History} (p : Option Block) {l : Fin 8}
    (h24 : H[24][l] = H'[24][l]) (h31 : H[31][l + 2] = H'[31][l + 2]) :
    (lambdaPass A H p)[25][l] = (lambdaPass A' H' p)[25][l] := by
  have h24' : H[24][l.val] = H'[24][l.val] := h24
  have h31' : H[31][(l.val + 2) % 8] = H'[31][(l.val + 2) % 8] := h31
  rw [Fin.getElem_fin, Fin.getElem_fin, lambdaPass_rewritten _ _ _ _ l.isLt, lambdaPass_rewritten _ _ _ _ l.isLt, h24',
    h31']

theorem sigmaPass_lane_congr {T T' : Acc} {H H' : History} {p p' : Block} {l : Fin 8} (hp : p[l] = p'[l])
    (hH : H[16][l] = H'[16][l]) (h1 : T[l.val + 1] = T'[l.val + 1]) (h9 : T[l.val + 9] = T'[l.val + 9]) :
    (sigmaPass T H (some p))[l.val + 1] = (sigmaPass T' H' (some p'))[l.val + 1] ∧
      (sigmaPass T H (some p))[l.val + 9] = (sigmaPass T' H' (some p'))[l.val + 9] := by
  have hpl : p[l.val] = p'[l.val] := hp
  have hHl : H[16][l.val] = H'[16][l.val] := hH
  rw [sigmaPass_low _ _ _ _ l.isLt, sigmaPass_low _ _ _ _ l.isLt, sigmaPass_high _ _ _ _ l.isLt,
    sigmaPass_high _ _ _ _ l.isLt, Option.getD_some, Option.getD_some, h1, h9, hpl, hHl]
  exact ⟨rfl, rfl⟩

/-- Settles O17: pass by pass, from the words each reads. -/
theorem referencePassesAreLaneWise : Obligations.ReferencePassesAreLaneWise :=
  ⟨fun _ _ _ h i => ⟨gammaPass_bit_congr h i, thetaPass_bit_congr h i⟩,
    fun A A' _ _ _ _ _ hp hH j h25 => lambdaPass_lane_congr A A' hp hH j h25,
    fun A A' _ _ p _ h24 h31 => lambdaPass_rewritten_congr A A' p h24 h31,
    fun _ _ _ _ _ _ _ hp hH h1 h9 => sigmaPass_lane_congr hp hH h1 h9⟩

/-! ### One keyless step of the reference record (R161) -/

/-- The words of an accumulator, the index taken mod 17. -/
def accWord (a : Acc) (i : Nat) : Word := a[i % 17]

/-- Word `i` of γ as R151 writes it. -/
def gammaWord (A : Nat → Word) (i : Nat) : Word := A i ^^^ (A ((i + 1) % 17) ||| ~~~A ((i + 2) % 17))

/-- Word `i` of π as R152 writes it. -/
def piWord (G : Nat → Word) (i : Nat) : Word := (G (7 * i % 17)).rotateLeft (i * (i + 1) / 2 % 32)

/-- Word `i` of θ as R153 writes it. -/
def thetaWord (C : Nat → Word) (i : Nat) : Word := C i ^^^ C ((i + 1) % 17) ^^^ C ((i + 4) % 17)

theorem accWord_eq (a : Acc) {i : Nat} (h : i < 17) : accWord a i = a[i] := by
  simp only [accWord, Nat.mod_eq_of_lt h]

theorem mod_17_lt (i : Nat) : i % 17 < 17 := Nat.mod_lt i (by decide)

theorem gammaWord_eq {A : Nat → Word} {a : Acc} (hA : ∀ i (h : i < 17), A i = a[i]) {i : Nat} (h : i < 17) :
    gammaWord A i = (gammaPass a)[i] := by
  rw [gammaWord, gammaPass_getElem, hA i h, hA _ (mod_17_lt _), hA _ (mod_17_lt _)]

/-- The rotation of the model is that of the library, 0 included. -/
theorem rotl_eq_rotateLeft (x : Word) {n : Nat} (h : n < 32) : rotl x n = x.rotateLeft n := by
  rw [BitVec.rotateLeft_def, Nat.mod_eq_of_lt h, rotl]
  split
  case isTrue h0 =>
    subst h0
    simp [BitVec.ushiftRight_eq_zero]
  case isFalse => rfl

theorem piWord_eq {G : Nat → Word} {g : Acc} (hG : ∀ i (h : i < 17), G i = g[i]) {i : Nat} (h : i < 17) :
    piWord G i = (piPass g)[i] := by
  rw [piWord, piPass_getElem, rotl_eq_rotateLeft _ (Nat.mod_lt _ (by decide)), hG _ (mod_17_lt _)]

theorem thetaWord_eq {C : Nat → Word} {y : Acc} (hC : ∀ i (h : i < 17), C i = y[i]) {i : Nat} (h : i < 17) :
    thetaWord C i = (thetaPass y)[i] := by
  rw [thetaWord, thetaPass_getElem, hC i h, hC _ (mod_17_lt _), hC _ (mod_17_lt _)]

/-- The words of π of an engine's accumulator. -/
theorem piWord_accWord (a : Acc) {i : Nat} (h : i < 17) :
    piWord (gammaWord (accWord a)) i = (piPass (gammaPass a))[i] :=
  piWord_eq (fun _ h => gammaWord_eq (fun _ h => accWord_eq a h) h) h

theorem thetaWord_accWord (a : Acc) {i : Nat} (h : i < 17) :
    thetaWord (piWord (gammaWord (accWord a))) i = (thetaPass (piPass (gammaPass a)))[i] :=
  thetaWord_eq (fun _ h => piWord_accWord a h) h

/-- Word `i mod 8` of logical stage `j`. -/
def stageWord (e : Engine) (j i : Nat) : Word := (logicalStage e j)[i % 8]

theorem stageWord_eq (e : Engine) {j i : Nat} (hj : j < 32) : stageWord e j i = e.logical[j][i % 8] := by
  rw [stageWord, show logicalStage e j = e.logical[j] from logicalStage_eq_getElem e ⟨j, hj⟩]

/-- What σ adds to words 1 to 8 of the accumulator (R154). -/
def sigmaWord (e : Engine) (p : Option Block) (i : Nat) : Word :=
  match p with | some x => x[i % 8] | none => stageWord e 4 i

/-- What λ adds to the new head (R155). -/
def headWord (A : Nat → Word) (p : Option Block) (i : Nat) : Word :=
  match p with | some x => x[i % 8] | none => A (i % 8 + 1)

theorem sigmaWord_eq (e : Engine) (p : Option Block) (i : Fin 8) :
    sigmaWord e p i.val = (p.getD e.logical[4])[i.val] := by
  cases p with
  | some x => simp only [sigmaWord, Option.getD_some, Nat.mod_eq_of_lt i.isLt]
  | none =>
    simp only [sigmaWord, Option.getD_none, stageWord_eq e (show 4 < 32 by decide), Nat.mod_eq_of_lt i.isLt]

theorem headWord_eq (a : Acc) (p : Option Block) (i : Fin 8) :
    headWord (accWord a) p i.val = (p.getD (Vector.ofFn fun i : Fin 8 => a[i.val + 1]))[i.val] := by
  cases p with
  | some x => simp only [headWord, Option.getD_some, Nat.mod_eq_of_lt i.isLt]
  | none =>
    simp only [headWord, Option.getD_none, Vector.getElem_ofFn, Nat.mod_eq_of_lt i.isLt]
    exact accWord_eq a (by omega)

/-- The engine after one keyless step of `cfg_ref`. -/
def refNext (p : Option Block) (e : Engine) : Engine := (engineStep cfgRef (p, none) false e).1

/-- Word `i` of the accumulator after γ, π and θ. -/
def mixedWord (e : Engine) (i : Nat) : Word := thetaWord (piWord (gammaWord (accWord e.a))) i

theorem refNext_a_zero (p : Option Block) (e : Engine) : (refNext p e).a[0] = mixedWord e 0 ^^^ 1#32 := by
  rw [mixedWord, thetaWord_accWord _ (by decide)]
  exact sigmaPass_zero _ _ _

theorem refNext_a_low (p : Option Block) (e : Engine) (i : Fin 8) :
    (refNext p e).a[i.val + 1] = mixedWord e (i.val + 1) ^^^ sigmaWord e p i.val := by
  rw [mixedWord, thetaWord_accWord _ (by omega), sigmaWord_eq]
  exact sigmaPass_low _ _ _ _ i.isLt

theorem refNext_a_high (p : Option Block) (e : Engine) (i : Fin 8) :
    (refNext p e).a[i.val + 9] = mixedWord e (i.val + 9) ^^^ stageWord e 16 i.val := by
  rw [mixedWord, thetaWord_accWord _ (by omega), stageWord_eq e (by decide)]
  simp only [Nat.mod_eq_of_lt i.isLt]
  exact sigmaPass_high _ _ _ _ i.isLt

theorem refNext_c_word (p : Option Block) (e : Engine) (i : Fin 17) :
    (refNext p e).c[i] = piWord (gammaWord (accWord e.a)) i.val := by
  rw [piWord_accWord _ i.isLt]
  rfl

/-- The stage a slot holds after the step, by the slot's place under the new cursor. -/
theorem refNext_slot (p : Option Block) (e : Engine) (sl : Fin 32) {j : Nat} (hj : j < 32)
    (h : (sl.val + 32 - (e.bstart.val + 31) % 32) % 32 = j) :
    (refNext p e).b[sl] = (lambdaPass e.a e.logical p)[j] := by
  subst h
  exact physicalOf_getElem (e.bstart + stride) (lambdaPass e.a e.logical p) sl.val sl.isLt

theorem refNext_head (p : Option Block) (e : Engine) {sl : Fin 32} (h : sl.val = (e.bstart.val + 31) % 32)
    (i : Fin 8) : (refNext p e).b[sl][i] = stageWord e 31 i.val ^^^ headWord (accWord e.a) p i.val := by
  rw [refNext_slot p e sl (j := 0) (by decide) (by omega), lambdaPass_head, Fin.getElem_fin, xorBlock_getElem,
    headWord_eq, stageWord_eq e (by decide)]
  simp only [Nat.mod_eq_of_lt i.isLt]

theorem refNext_rewritten (p : Option Block) (e : Engine) {sl : Fin 32} (h : sl.val = (e.bstart.val + 24) % 32)
    (i : Fin 8) : (refNext p e).b[sl][i] = stageWord e 24 i.val ^^^ stageWord e 31 ((i.val + 2) % 8) := by
  rw [refNext_slot p e sl (j := 25) (by decide) (by omega), Fin.getElem_fin, lambdaPass_rewritten _ _ _ _ i.isLt,
    stageWord_eq e (by decide), stageWord_eq e (by decide)]
  simp only [Nat.mod_eq_of_lt i.isLt, Nat.mod_mod]

/-- Every other stage keeps its slot: it is one place older under a cursor one place lower. -/
theorem refNext_other (p : Option Block) (e : Engine) {sl : Fin 32} (h0 : sl.val ≠ (e.bstart.val + 31) % 32)
    (h25 : sl.val ≠ (e.bstart.val + 24) % 32) : (refNext p e).b[sl] = e.b[sl] := by
  have hlt := sl.isLt
  have hc := e.bstart.isLt
  rw [refNext_slot p e sl (Nat.mod_lt _ (by decide)) rfl, lambdaPass_older _ _ _ _ _ (by omega) (by omega),
    logical_getElem]
  simp only [Fin.getElem_fin]
  congr 1
  omega

theorem refTap_eq_accWord (a : Acc) (ev : Stage) :
    refTap a ev = Vector.ofFn fun i : Fin 8 => accWord a (i.val + 9) := by
  ext1 i hi
  rw [refTap_getElem a ev i hi, Vector.getElem_ofFn, accWord_eq a (by omega)]

theorem fits_singleton (p : Option Block) : Fits p.isSome 1 (p.map fun x => [x]) := by
  cases p <;> simp [Fits, ListWrong]

theorem iterInputs_one {p : Option Block} {d : Ports} (h : d.push = p.map fun x => [x]) :
    iterInputs p.isSome false 0 1 d = [(p, none)] := by
  cases p <;> simp [iterInputs, h, portElem]

/-- ITERATE with `COUNT = 1` and without a key, under `cfg_ref`. -/
theorem exec_iterInstr_one {s : State} {p : Option Block} (pull : Bool) (hf : s.fault = false) (hr : s.phase = .raw)
    (hc : s.cfg = .ref) (hp : s.din.push = p.map fun x => [x]) (hk : s.din.key = none) :
    exec (iterInstr p.isSome pull false 0 1) s =
      .next (finished s (refNext p s.eng) (if pull then [refTap s.eng.a (evicted s.eng)] else []) []) := by
  have hfp : Fits p.isSome (1 : BitVec 16).toNat s.din.push := hp ▸ fits_singleton p
  have hfk : Fits false (0 : BitVec 8).toNat s.din.key := by simp [hk, Fits, ListWrong]
  rw [exec_iterInstr_of_fits hf hr hfp hfk]
  change Host.Outcome.next (finished s (runOf pull (iterInputs p.isSome false 0 1 s.din) s).1
    (runOf pull (iterInputs p.isSome false 0 1 s.din) s).2 []) = _
  rw [iterInputs_one hp, runOf, hc, engineRun_out]
  rfl

/-- Settles O15: the passes word by word, and the two slots λ writes under the new cursor. -/
theorem referenceStepWritesTwoSlots : Obligations.ReferenceStepWritesTwoSlots := by
  intro s p pull hf hr hc hp hk
  refine ⟨_, exec_iterInstr_one pull hf hr hc hp hk, refNext_a_zero p s.eng, refNext_a_low p s.eng,
    refNext_a_high p s.eng, refNext_c_word p s.eng, fun sl i h => refNext_head p s.eng h i,
    fun sl i h => refNext_rewritten p s.eng h i, fun sl h0 h25 => refNext_other p s.eng h0 h25, rfl, ?_, ?_⟩
  · omega
  · rw [outwOf_finished, refTap_eq_accWord]
    rfl

end Sys2Proof.DiffusionProofs

/-! ### ITERATE commands one after the other (40_engine.md R121) -/

namespace Sys2Proof.ComposeProofs

open Sys2Proof.Machine Sys2Proof.Claims Sys2Proof.StatusProofs Sys2Proof.EngineProofs Sys2Proof.DiffusionProofs

/-! ### The step inputs of a joined command -/

/-- The push Block of step `t`. -/
def pushAt (P : Bool) (l : Option (List Block)) (t : Nat) : Option Block := if P then elemAt l t else none

/-- The key Block of step `t`. -/
def keyAt (K : Bool) (nk : Nat) (l : Option (List Block)) (t : Nat) : Option Block :=
  if K = true ∧ t < nk then elemAt l t else none

/-- The inputs of a run of `m + n` steps are those of its first `m` steps and then those of the rest. -/
theorem iterInputs_add {P K K1 K2 : Bool} {nk nk1 nk2 m n : Nat} {d d1 d2 : Ports}
    (hp1 : ∀ t < m, pushAt P d.push t = pushAt P d1.push t)
    (hp2 : ∀ t < n, pushAt P d.push (m + t) = pushAt P d2.push t)
    (hk1 : ∀ t < m, keyAt K nk d.key t = keyAt K1 nk1 d1.key t)
    (hk2 : ∀ t < n, keyAt K nk d.key (m + t) = keyAt K2 nk2 d2.key t) :
    iterInputs P K nk (m + n) d = iterInputs P K1 nk1 m d1 ++ iterInputs P K2 nk2 n d2 := by
  apply List.ext_getElem (by simp)
  intro t ht _
  rw [iterInputs_length] at ht
  have hget : (iterInputs P K nk (m + n) d)[t]? = some (pushAt P d.push t, keyAt K nk d.key t) :=
    iterInputs_getElem? P K nk ht d
  apply Option.some.inj
  rw [← List.getElem?_eq_getElem, ← List.getElem?_eq_getElem, hget]
  rcases Nat.lt_or_ge t m with hm | hm
  · rw [List.getElem?_append_left (by simpa using hm), hp1 t hm, hk1 t hm]
    exact (iterInputs_getElem? P K1 nk1 hm d1).symm
  · obtain ⟨u, rfl⟩ := Nat.exists_eq_add_of_le hm
    have hu : u < n := by omega
    rw [List.getElem?_append_right (by simp), iterInputs_length, Nat.add_sub_cancel_left, hp2 u hu, hk2 u hu]
    exact (iterInputs_getElem? P K2 nk2 hu d2).symm

theorem exists_of_fits {α : Type} {n : Nat} {l : Option (List α)} (h : Fits true n l) :
    ∃ x, l = some x ∧ x.length = n := by
  cases l with
  | none => exact absurd (.inl ⟨rfl, nofun⟩) h
  | some x =>
    refine ⟨x, rfl, not_not.mp fun hx => h (.inl ⟨rfl, ?_⟩)⟩
    rintro _ ⟨⟩
    exact hx

theorem eq_none_of_fits {α : Type} {n : Nat} {l : Option (List α)} (h : Fits false n l) : l = none :=
  not_not.mp fun hl => h (.inr ⟨rfl, hl⟩)

theorem fits_some {α : Type} {n : Nat} {x : List α} (h : x.length = n) : Fits true n (some x) := by
  simp [Fits, ListWrong, h]

theorem fits_none {α : Type} (n : Nat) : Fits (α := α) false n none := by
  simp [Fits, ListWrong]

section Push
variable {P : Bool} {m n : Nat} {p1 p2 : Option (List Block)} (h1 : Fits P m p1) (h2 : Fits P n p2)
include h1 h2

theorem fits_joinLists : Fits P (m + n) (joinLists p1 p2) := by
  cases P with
  | false =>
    obtain rfl := eq_none_of_fits h1
    exact fits_none _
  | true =>
    obtain ⟨x, rfl, hx⟩ := exists_of_fits h1
    obtain ⟨y, rfl, hy⟩ := exists_of_fits h2
    exact fits_some (by rw [List.length_append, hx, hy])

theorem pushAt_joinLists_left {t : Nat} (ht : t < m) : pushAt P (joinLists p1 p2) t = pushAt P p1 t := by
  cases P with
  | false => rfl
  | true =>
    obtain ⟨x, rfl, hx⟩ := exists_of_fits h1
    obtain ⟨y, rfl, hy⟩ := exists_of_fits h2
    exact List.getElem?_append_left (hx ▸ ht)

theorem pushAt_joinLists_right (t : Nat) : pushAt P (joinLists p1 p2) (m + t) = pushAt P p2 t := by
  cases P with
  | false => rfl
  | true =>
    obtain ⟨x, rfl, hx⟩ := exists_of_fits h1
    obtain ⟨y, rfl, hy⟩ := exists_of_fits h2
    change (x ++ y)[m + t]? = y[t]?
    rw [List.getElem?_append_right (by omega), hx, Nat.add_sub_cancel_left]

end Push

/-! ### Two commands and one -/

/-- A run of joined inputs, as two runs. -/
theorem runOf_append (pull : Bool) (l1 l2 : List StepInput) (s : State) :
    runOf pull (l1 ++ l2) s =
      ((runOf pull l2 (setEng (runOf pull l1 s).1 s)).1,
        (runOf pull l1 s).2 ++ (runOf pull l2 (setEng (runOf pull l1 s).1 s)).2) :=
  engineRun_append _ pull l1 l2 s.eng

section Two
variable {P O K1 K2 : Bool} {nk1 nk2 nk : BitVec 8} {m n : BitVec 16} {s : State}
  {p1 p2 k1 k2 k : Option (List Block)}

/-- Two commands whose key lists fit compose when the key Blocks of the joint command are theirs step by step. -/
theorem composes_of_keys (hmn : m.toNat + n.toNat < 65536) (hf : s.fault = false) (hr : s.phase = .raw)
    (hp1 : Fits P m.toNat p1) (hp2 : Fits P n.toNat p2) (hk1 : Fits K1 nk1.toNat k1) (hk2 : Fits K2 nk2.toNat k2)
    (hk : Fits (K1 || K2) nk.toNat k)
    (hleft : ∀ t < m.toNat, keyAt (K1 || K2) nk.toNat k t = keyAt K1 nk1.toNat k1 t)
    (hright : ∀ t < n.toNat, keyAt (K1 || K2) nk.toNat k (m.toNat + t) = keyAt K2 nk2.toNat k2 t) :
    Composes P O K1 K2 nk1 nk2 m n s p1 p2 k1 k2 nk k := by
  have hsum : (m + n).toNat = m.toNat + n.toNat := by
    rw [BitVec.toNat_add]
    omega
  have hp : Fits P (m + n).toNat (joinLists p1 p2) := hsum ▸ fits_joinLists hp1 hp2
  have hin : iterInputs P (K1 || K2) nk.toNat (m + n).toNat (blocksIn (joinLists p1 p2) k) =
      iterInputs P K1 nk1.toNat m.toNat (blocksIn p1 k1) ++ iterInputs P K2 nk2.toNat n.toNat (blocksIn p2 k2) := by
    rw [hsum]
    exact iterInputs_add (fun t ht => pushAt_joinLists_left hp1 hp2 ht) (fun t _ => pushAt_joinLists_right hp1 hp2 t)
      hleft hright
  have hrun := runOf_append O (iterInputs P K1 nk1.toNat m.toNat (blocksIn p1 k1))
    (iterInputs P K2 nk2.toNat n.toNat (blocksIn p2 k2)) (setDin (blocksIn (joinLists p1 p2) k) s)
  rw [← hin] at hrun
  refine ⟨_, _, _, exec_iterInstr_of_fits (s := setDin (blocksIn p1 k1) s) hf hr hp1 hk1,
    exec_iterInstr_of_fits hf hr hp2 hk2,
    exec_iterInstr_of_fits (s := setDin (blocksIn (joinLists p1 p2) k) s) hf hr hp hk, ?_, ?_, rfl⟩
  · rw [setDin_din, hrun]
    rfl
  · rw [setDin_din, hrun]
    rfl

end Two

theorem keyAt_append_left {k1 k2 : List Block} {t : Nat} (h : t < k1.length) :
    keyAt true (k1.length + k2.length) (some (k1 ++ k2)) t = keyAt true k1.length (some k1) t := by
  rw [keyAt, keyAt, if_pos ⟨rfl, by omega⟩, if_pos ⟨rfl, h⟩]
  exact List.getElem?_append_left h

theorem keyAt_append_right (k1 k2 : List Block) (t : Nat) :
    keyAt true (k1.length + k2.length) (some (k1 ++ k2)) (k1.length + t) = keyAt true k2.length (some k2) t := by
  simp [keyAt, elemAt, List.getElem?_append_right]

theorem keyAt_of_le {nk t : Nat} (h : nk ≤ t) (l : Option (List Block)) : keyAt true nk l t = none :=
  if_neg fun ⟨_, ht⟩ => h.not_gt ht

theorem keyAt_false (nk : Nat) (l : Option (List Block)) (t : Nat) : keyAt false nk l t = none :=
  if_neg fun ⟨h, _⟩ => Bool.false_ne_true h

/-- Settles O12: the joint command's inputs are those of the two commands, and runs compose. -/
theorem iterateCommandsCompose : Obligations.IterateCommandsCompose := by
  intro P O m n s p1 p2 hmn hf hr hp1 hp2
  refine ⟨?_, fun nk1 nk2 k1 k2 hnk h256 _ _ _ hk1 hk2 => ?_, fun nk1 k1 _ hle hk1 => ?_⟩
  · refine composes_of_keys hmn hf hr hp1 hp2 (fits_none _) (fits_none _) (fits_none _) (fun t _ => ?_) (fun t _ => ?_)
    · rfl
    · rfl
  · have hsum : (nk1 + nk2).toNat = k1.length + k2.length := by
      rw [BitVec.toNat_add, hk1, hk2]
      omega
    refine composes_of_keys hmn hf hr hp1 hp2 (fits_some hk1) (fits_some hk2)
      (fits_some (by rw [List.length_append, hsum])) (fun t ht => ?_) (fun t _ => ?_)
    · rw [hsum, ← hk1]
      exact keyAt_append_left (by omega)
    · rw [hsum, ← hk2, ← hnk, ← hk1]
      exact keyAt_append_right k1 k2 t
  · refine composes_of_keys hmn hf hr hp1 hp2 (fits_some hk1) (fits_none _) (fits_some hk1) (fun t _ => rfl)
      (fun t _ => ?_)
    exact (keyAt_of_le (by omega) _).trans (keyAt_false _ _ _).symm

end Sys2Proof.ComposeProofs

/-! ### What the hash and cipher commands run (42_hash.md section 1; 43_cipher.md section 1) -/

namespace Sys2Proof.ControllerProofs

open Sys2Proof.Machine Sys2Proof.Safety Sys2Proof.Claims Sys2Proof.StatusProofs Sys2Proof.EngineProofs
  Sys2Proof.HashProofs Sys2Proof.CipherProofs Sys2Proof.ExceptionProofs Sys2Proof.StepProofs Sys2Proof.DiffusionProofs
  Sys2Proof.ComposeProofs

/-! ### HASH_BLOCK and HASH_FINAL (R181, R182) -/

theorem pushMessage_eng_of_bytes {s : State} {y : List Byte} (hd : s.din.bytes1 = some y) :
    (pushMessage s).eng = (engineStep (cfgOf s.cfg) (some (bytesToBlock s.order y), none) false s.eng).1 := by
  rw [pushMessage_eng, messageBlock, hd]
  rfl

theorem exec_hashBlock_of_length {s : State} {y : List Byte} (hf : s.fault = false) (hp : s.phase = .hashAbsorbing)
    (hd : s.din.bytes1 = some y) (hy : y.length = 32) :
    exec .hashBlock s = .next (finished s (pushMessage s).eng [] []) := by
  rw [exec, execHashBlock, inPhase_ok _ _ s hf hp, hashViol_of_length hd hy, unlessViol_zero]
  rfl

/-- Settles O21: HASH_BLOCK and ITER.P 1 both leave the engine of one push step. -/
theorem hashBlockPushesItsBlock : Obligations.HashBlockPushesItsBlock := by
  intro s y hf hp hd hy
  refine ⟨(pushMessage s).eng, ?_, exec_hashBlock_of_length hf hp hd hy, ?_⟩
  · rw [pushMessage_eng_of_bytes hd]
    exact stepRel_engineStep _ (some (bytesToBlock s.order y), none) false s.eng
  · have hin : iterInputs true false 0 1 (blocksIn (some [bytesToBlock s.order y]) none) =
        [(some (bytesToBlock s.order y), none)] := iterInputs_one (p := some _) rfl
    refine ⟨_, exec_iterInstr_of_fits (P := true) (O := false) (K := false) (nk := 0) (count := 1) hf rfl
      (fits_some rfl) (fits_none _), ?_⟩
    rw [pushMessage_eng_of_bytes hd]
    exact congrArg (fun l => (engineRun (cfgOf s.cfg) false l s.eng).1) hin

/-- Settles O22: the final push, then one pull step whose tap is the digest Block. -/
theorem hashFinalPushesThenPulls : Obligations.HashFinalPushesThenPulls := by
  intro s n y hf hp h1 h32 hd hy
  refine ⟨(pushMessage s).eng, finalizedEngine s, ?_, ?_, exec_hashFinal_of_legal hf hp ⟨h1, h32⟩ hd hy⟩
  · rw [pushMessage_eng_of_bytes hd]
    exact stepRel_engineStep _ (some (bytesToBlock s.order y), none) false s.eng
  · exact stepRel_engineStep _ (none, none) true _

/-! ### CIPHER_INIT (R210) -/

/-- The engine after cipher setup. -/
def setupEngine (s : State) (key iv : List Byte) : Engine :=
  (engineRun (cfgOf s.cfg) false (cipherInputs s.order s.nblank.toNat key iv) Engine.zero).1

theorem setupEngine_congr {s s' : State} (h : SameStraps s s') (key iv : List Byte) :
    setupEngine s' key iv = setupEngine s key iv := by
  obtain ⟨ho, hn, hc⟩ := h
  rw [setupEngine, setupEngine, ho, hn, hc]

section Init
variable {s : State} {ivlen : BitVec 8} {klen : BitVec 16} {key iv : List Byte}

theorem cipherViol_of_lengths {d : Ports} (hk : d.bytes1 = some key) (hkl : key.length = klen.toNat)
    (hv : d.bytes2 = some iv) (hvl : iv.length = ivlen.toNat) : cipherViol klen.toNat ivlen.toNat d = 0 := by
  rw [cipherViol, hk, hv, listBad_of_fits (fits_some hkl), listBad_of_fits (fits_some hvl)]
  rfl

theorem exec_cipherInit_of_legal (hf : s.fault = false) (hk32 : 32 ≤ klen.toNat) (hk64 : klen.toNat ≤ 64)
    (hv32 : 32 ≤ ivlen.toNat) (hv64 : ivlen.toNat ≤ 64) (hk : s.din.bytes1 = some key)
    (hkl : key.length = klen.toNat) (hv : s.din.bytes2 = some iv) (hvl : iv.length = ivlen.toNat) :
    exec (.cipherInit ivlen klen) s =
      .next (finished { s with phase := .cipherReady } (setupEngine s key iv) [] []) := by
  rw [exec_cipherInit_of_legal_lengths hf (by omega) (by omega), cipherViol_of_lengths hk hkl hv hvl, unlessViol_zero,
    absorbKey, hk, hv]
  rfl

end Init

theorem cipherInputs_eq (o : WordOrder) (m : Nat) (key iv : List Byte) :
    cipherInputs o m key iv = keyInputs (keyBlocks o key ++ keyBlocks o iv) ++ emptyInputs m := by
  rw [cipherInputs, keyInputs, keyInputs, keyInputs, List.map_append]

theorem emptyInputs_getElem? {m t : Nat} (h : t < m) : (emptyInputs m)[t]? = some (none, none) := by
  simp [emptyInputs, h]

@[simp] theorem keyInputs_length (l : List Block) : (keyInputs l).length = l.length := List.length_map _

/-- Key steps and then blank steps: past the key Blocks there is none. -/
theorem keyInputs_append_getElem? (l : List Block) {m t : Nat} (h : t < l.length + m) :
    (keyInputs l ++ emptyInputs m)[t]? = some (none, l[t]?) := by
  have hlen := keyInputs_length l
  rcases Nat.lt_or_ge t l.length with ht | ht
  · rw [List.getElem?_append_left (hlen ▸ ht), keyInputs, List.getElem?_map, List.getElem?_eq_getElem ht]
    rfl
  · rw [List.getElem?_append_right (hlen ▸ ht), hlen, emptyInputs_getElem? (by omega), List.getElem?_eq_none ht]

/-- Settles O27: the inputs of the setup run step by step. -/
theorem cipherInitAbsorbsKeyThenIV : Obligations.CipherInitAbsorbsKeyThenIV := by
  intro s ivlen klen key iv hf hk32 hk64 hv32 hv64 hk hkl hv hvl
  have hlen : (cipherInputs s.order s.nblank.toNat key iv).length =
      (keyBlocks s.order key).length + (keyBlocks s.order iv).length + s.nblank.toNat := by
    simp [cipherInputs_eq, Nat.add_assoc]
  refine ⟨enginesOf (cfgOf s.cfg) (cipherInputs s.order s.nblank.toNat key iv) Engine.zero, allZero_engineZero,
    runRel_enginesOf _ (fun t ht => ?_) _, ?_⟩
  · rw [cipherInputs_eq]
    exact keyInputs_append_getElem? _ (by rwa [List.length_append])
  · rw [exec_cipherInit_of_legal hf hk32 hk64 hv32 hv64 hk hkl hv hvl, ← hlen, enginesOf_length _ false, setupEngine]

/-! ### CIPHER_KS (R212) -/

theorem exec_cipherKs_of_ready {s : State} (count : BitVec 16) (hf : s.fault = false) (hp : s.phase = .cipherReady) :
    exec (.cipherKs count) s =
      .next (finished s (runOf true (emptyInputs count.toNat) s).1 []
        ((runOf true (emptyInputs count.toNat) s).2.flatMap (blockToBytes s.order))) := by
  rw [exec, execCipherKs, inPhase_ok _ _ s hf hp]
  rfl

/-- A run of blank inputs that pulls: its engine and its Blocks. -/
theorem runOf_emptyInputs (count : Nat) (s : State) :
    runOf true (emptyInputs count) s =
      (enginesOf (cfgOf s.cfg) (emptyInputs count) s.eng count,
        tapsOf (cfgOf s.cfg) (enginesOf (cfgOf s.cfg) (emptyInputs count) s.eng) count) := by
  have heng := enginesOf_length (cfgOf s.cfg) true (emptyInputs count) s.eng
  have hout := engineRun_pulled (cfgOf s.cfg) (emptyInputs count) s.eng
  rw [emptyInputs_length] at heng hout
  rw [heng, ← hout]
  rfl

/-- Settles O30: CIPHER_KS and ITER.O run the same blank inputs. -/
theorem cipherKsPullsKeystream : Obligations.CipherKsPullsKeystream := by
  intro s count hf hp
  refine ⟨enginesOf (cfgOf s.cfg) (emptyInputs count.toNat) s.eng, rfl,
    runRel_enginesOf _ (fun t ht => emptyInputs_getElem? ht) _, ?_, ?_⟩
  · rw [exec_cipherKs_of_ready count hf hp, runOf_emptyInputs]
  · have hexec := exec_iterInstr_of_fits (P := false) (O := true) (K := false) (nk := 0) (count := count)
      (s := { s with phase := .raw, din := noPorts }) hf rfl (fits_none _) (fits_none _)
    rw [iterInputs_empty, runOf_emptyInputs] at hexec
    exact ⟨_, hexec, rfl, rfl⟩

/-! ### The keystream of one key and IV (R215) -/

/-- The first `count` keystream bytes, in Blocks, of an engine (R212, R213). -/
def keystream (s : State) (count : Nat) (e : Engine) : List Byte :=
  (engineRun (cfgOf s.cfg) true (emptyInputs count) e).2.flatMap (blockToBytes s.order)

@[simp] theorem keystream_length (s : State) (count : Nat) (e : Engine) :
    (keystream s count e).length = 32 * count := by
  rw [keystream, flatMap_blockToBytes_length, engineRun_pulled_length, emptyInputs_length]

theorem keystream_congr {s s' : State} (h : SameStraps s s') (count : Nat) (e : Engine) :
    keystream s' count e = keystream s count e := by
  obtain ⟨ho, -, hc⟩ := h
  rw [keystream, keystream, ho, hc]

/-- The engine after `count` blank steps. -/
def afterBlank (s : State) (count : Nat) (e : Engine) : Engine :=
  (engineRun (cfgOf s.cfg) true (emptyInputs count) e).1

theorem afterBlank_congr {s s' : State} (h : SameStraps s s') (count : Nat) (e : Engine) :
    afterBlank s' count e = afterBlank s count e := by
  obtain ⟨-, -, hc⟩ := h
  rw [afterBlank, afterBlank, hc]

theorem afterBlank_add (s : State) (m n : Nat) (e : Engine) :
    afterBlank s (m + n) e = afterBlank s n (afterBlank s m e) := by
  rw [afterBlank, emptyInputs_add, engineRun_append]
  rfl

theorem keystream_add (s : State) (m n : Nat) (e : Engine) :
    keystream s (m + n) e = keystream s m e ++ keystream s n (afterBlank s m e) := by
  rw [keystream, emptyInputs_add, engineRun_append, List.flatMap_append]
  rfl

theorem exec_cipherKs_keystream {s : State} (count : BitVec 16) (hf : s.fault = false) (hp : s.phase = .cipherReady) :
    exec (.cipherKs count) s =
      .next (finished s (afterBlank s count.toNat s.eng) [] (keystream s count.toNat s.eng)) :=
  exec_cipherKs_of_ready count hf hp

/-- Settles O31: from one setup engine, `m + n` pull steps are `m` and then `n`. -/
theorem keystreamIsPrefixStable : Obligations.KeystreamIsPrefixStable := by
  intro s s' ivlen klen key iv m n hf hf' hst hk32 hk64 hv32 hv64 hkl hvl hmn
  have hsum : (m + n).toNat = m.toNat + n.toNat := by
    rw [BitVec.toNat_add]
    omega
  have hjoin : keystream s (m + n).toNat (setupEngine s key iv) =
      keystream s m.toNat (setupEngine s key iv) ++
        keystream s n.toNat (afterBlank s m.toNat (setupEngine s key iv)) := hsum ▸ keystream_add s _ _ _
  have hks : keystream s' (m + n).toNat (setupEngine s' key iv) = keystream s (m + n).toNat (setupEngine s key iv) := by
    rw [setupEngine_congr hst, keystream_congr hst]
  refine ⟨_, _, _, _, _, exec_cipherInit_of_legal (s := setDin _ s) hf hk32 hk64 hv32 hv64 rfl hkl rfl hvl,
    exec_cipherKs_keystream m hf rfl, exec_cipherKs_keystream n hf rfl,
    exec_cipherInit_of_legal (s := setDin _ s') hf' hk32 hk64 hv32 hv64 rfl hkl rfl hvl,
    exec_cipherKs_keystream (m + n) hf' rfl, ?_, ?_, ?_, ?_⟩
  · refine Eq.trans ?_ (congrArg (List.take _) (hks.trans hjoin)).symm
    exact (List.take_left' (keystream_length s _ _)).symm
  · exact (hks.trans hjoin).symm
  · exact (keystream_length s' _ _).trans (congrArg _ hsum)
  · change afterBlank s n.toNat (afterBlank s m.toNat (setupEngine s key iv)) =
      afterBlank s' (m + n).toNat (setupEngine s' key iv)
    rw [setupEngine_congr hst, afterBlank_congr hst, hsum, afterBlank_add]

end Sys2Proof.ControllerProofs

/-! ### Commands the host presents one after the other (30_encoding.md R80, R82; 42_hash.md section 2; 43_cipher.md) -/

namespace Sys2Proof.HostProofs

open Sys2Proof.Machine Sys2Proof.Safety Sys2Proof.Claims Sys2Proof.StatusProofs Sys2Proof.EngineProofs
  Sys2Proof.HashProofs Sys2Proof.CipherProofs Sys2Proof.ExceptionProofs Sys2Proof.EncodingProofs
  Sys2Proof.StepProofs Sys2Proof.AlikeProofs Sys2Proof.DiffusionProofs Sys2Proof.ComposeProofs
  Sys2Proof.ControllerProofs

/-! ### A run of commands, command by command -/

/-- A command does not look at what the host is still to present. -/
theorem exec_setInbox {i : Instr} {s t : State} (h : exec i s = .next t) (l : List HostEvent) :
    exec i (setInbox l s) = .next (setInbox l t) := by
  obtain ⟨u, u', hu, hu', hl⟩ :=
    exec_alike (s := s) (s' := setInbox l s) ⟨rfl, rfl, rfl, rfl, rfl, rfl⟩ indistinct_eq rfl i
  cases h.symm.trans hu
  rw [hu']
  obtain ⟨-, rfl, rfl⟩ | ⟨-, code, info, rfl, rfl⟩ | ⟨-, viol, rfl, rfl⟩ |
    ⟨-, p, e, _, outw, outb, rfl, rfl, rfl⟩ := hl
  all_goals rfl

/-- A well-formed command that the host presents next is the one the block runs. -/
theorem step_present {c : Command} {s t : State} (hw : c.1.wf = true) (h : exec c.1 (setDin c.2 s) = .next t)
    (l : List HostEvent) : step (setInbox (present c :: l) s) = .next (setInbox l t) := by
  have hstep := step_of_decoded (s := setInbox (present c :: l) s) (r := ⟨encode c.1, c.2⟩) rfl (decode_encode hw)
  rw [hstep]
  exact exec_setInbox h l

theorem runCommands_cons {c : Command} {s t : State} (hw : c.1.wf = true) (h : exec c.1 (setDin c.2 s) = .next t)
    (cs : List Command) : runCommands (c :: cs) s = runCommands cs t :=
  run_succ (step_present hw h (cs.map present)) cs.length

/-- After the last command the host is silent. -/
theorem runCommands_nil (s : State) : runCommands [] s = .next (setInbox [] s) := rfl

theorem runCommands_singleton {c : Command} {s t : State} (hw : c.1.wf = true)
    (h : exec c.1 (setDin c.2 s) = .next t) : runCommands [c] s = .next (setInbox [] t) := by
  rw [runCommands_cons hw h, runCommands_nil]

/-- The block is not faulted, in phase `p`, with the straps of `s` and the engine `e`. -/
structure Serves (s : State) (p : Phase) (e : Engine) (t : State) : Prop where
  fault : t.fault = false
  phase : t.phase = p
  straps : SameStraps s t
  eng : t.eng = e

theorem runCommands_reset {s : State} (hf : s.fault = false) (cs : List Command) :
    ∃ t, runCommands ((.reset, noPorts) :: cs) s = runCommands cs t ∧ Serves s .raw Engine.zero t := by
  have hexec := exec_reset_finished (s := setDin noPorts s) hf
  refine ⟨_, runCommands_cons rfl hexec cs, ?_⟩
  exact ⟨hf, rfl, ⟨rfl, rfl, rfl⟩, rfl⟩

theorem runCommands_hashInit {s : State} (hf : s.fault = false) (cs : List Command) :
    ∃ t, runCommands ((.hashInit, noPorts) :: cs) s = runCommands cs t ∧ Serves s .hashAbsorbing Engine.zero t := by
  have hexec := exec_hashInit_finished (s := setDin noPorts s) hf
  refine ⟨_, runCommands_cons rfl hexec cs, ?_⟩
  exact ⟨hf, rfl, ⟨rfl, rfl, rfl⟩, rfl⟩

/-! ### HASH (42_hash.md R186) -/

/-- The push steps of message blocks (R181). -/
def messageInputs (o : WordOrder) (blocks : List (List Byte)) : List StepInput :=
  blocks.map fun y => (some (bytesToBlock o y), none)

/-- The engine after message blocks. -/
def absorbed (s : State) (blocks : List (List Byte)) (e : Engine) : Engine :=
  (engineRun (cfgOf s.cfg) false (messageInputs s.order blocks) e).1

theorem absorbed_concat (s : State) (blocks : List (List Byte)) (y : List Byte) (e : Engine) :
    absorbed s (blocks ++ [y]) e =
      (engineStep (cfgOf s.cfg) (some (bytesToBlock s.order y), none) false (absorbed s blocks e)).1 := by
  rw [absorbed, messageInputs, List.map_append, engineRun_append]
  rfl

/-- The final push of a block on an absorbing state. -/
theorem pushMessage_of_serves {s t : State} {e : Engine} (h : Serves s .hashAbsorbing e t) (y : List Byte) :
    (pushMessage (setDin ⟨none, none, some y, none⟩ t)).eng =
      (engineStep (cfgOf s.cfg) (some (bytesToBlock s.order y), none) false e).1 := by
  obtain ⟨-, -, ⟨ho, -, hc⟩, he⟩ := h
  rw [pushMessage_eng_of_bytes rfl]
  simp only [setDin_cfg, setDin_order, setDin_eng, ho, hc, he]

theorem runCommands_hashBlocks {s : State} {blocks : List (List Byte)} (hlen : ∀ y ∈ blocks, y.length = 32)
    (cs : List Command) {e : Engine} {t : State} (h : Serves s .hashAbsorbing e t) :
    ∃ u, runCommands (blocks.map (bytesCommand .hashBlock) ++ cs) t = runCommands cs u ∧
      Serves s .hashAbsorbing (absorbed s blocks e) u := by
  induction blocks generalizing e t with
  | nil => exact ⟨t, rfl, h⟩
  | cons y blocks ih =>
    have hexec := exec_hashBlock_of_length (s := setDin ⟨none, none, some y, none⟩ t) h.fault h.phase rfl
      (hlen y List.mem_cons_self)
    obtain ⟨u, hu, ha⟩ := ih (fun x hx => hlen x (List.mem_cons_of_mem y hx))
      (t := finished _ _ [] []) ⟨h.fault, h.phase, h.straps, pushMessage_of_serves h y⟩
    exact ⟨u, (runCommands_cons rfl hexec _).trans hu, ha⟩

theorem hashCommands_concat (blocks : List (List Byte)) (y : List Byte) (n : BitVec 16) :
    hashCommands (blocks ++ [y]) n =
      (.hashInit, noPorts) :: (blocks.map (bytesCommand .hashBlock) ++ [bytesCommand (.hashFinal n) y]) := by
  rw [hashCommands, List.dropLast_concat, List.getLast?_concat]
  rfl

theorem messageInputs_getElem? (o : WordOrder) {blocks : List (List Byte)} {t : Nat} (h : t < blocks.length) :
    (messageInputs o blocks)[t]? = some ((blocks[t]?).map (bytesToBlock o), none) := by
  simp [messageInputs, h]

theorem enginesOf_messageInputs (s : State) (blocks : List (List Byte)) (e : Engine) :
    enginesOf (cfgOf s.cfg) (messageInputs s.order blocks) e blocks.length = absorbed s blocks e := by
  have hlen : (messageInputs s.order blocks).length = blocks.length := List.length_map _
  rw [← hlen, enginesOf_length _ false, absorbed]

/-- Settles O25: HASH_INIT, the pushes by induction on the blocks, and the final push and pull. -/
theorem hashProcedureDigestsItsBlocks : Obligations.HashProcedureDigestsItsBlocks := by
  intro s blocks n hf hne hlen h1 h32
  obtain ⟨init, y, rfl⟩ := List.eq_nil_or_concat blocks |>.resolve_left hne
  rw [List.concat_eq_append] at *
  obtain ⟨v, hv, hz⟩ := runCommands_hashInit hf
    (init.map (bytesCommand .hashBlock) ++ [bytesCommand (.hashFinal n) y])
  obtain ⟨u, hu, ha⟩ := runCommands_hashBlocks (fun x hx => hlen x (List.mem_append_left _ hx))
    [bytesCommand (.hashFinal n) y] hz
  have hfinal := exec_hashFinal_of_legal (s := setDin ⟨none, none, some y, none⟩ u) ha.fault ha.phase ⟨h1, h32⟩ rfl
    (hlen y (by simp))
  have hpush := (pushMessage_of_serves ha y).trans (absorbed_concat s init y Engine.zero).symm
  have hrun := hv.trans (hu.trans (runCommands_singleton rfl hfinal))
  rw [← hashCommands_concat] at hrun
  obtain ⟨-, -, hst, -⟩ := ha
  refine ⟨enginesOf (cfgOf s.cfg) (messageInputs s.order (init ++ [y])) Engine.zero, _, allZero_engineZero,
    runRel_enginesOf _ (fun t ht => messageInputs_getElem? s.order ht) _, hrun, rfl, rfl, hst, ?_⟩
  change (blockToBytes u.order (tapOf (cfgOf u.cfg) (pushMessage _).eng)).take n.toNat = _
  obtain ⟨ho, -, hc⟩ := hst
  rw [enginesOf_messageInputs, hpush, ho, hc]

/-! ### CIPHER_INIT in engine commands (43_cipher.md section 1) -/

theorem iterInputs_keys {l : List Block} {d : Ports} (h : d.key = some l) :
    iterInputs false true l.length l.length d = keyInputs l := by
  apply List.ext_getElem (by simp)
  intro t ht _
  rw [iterInputs_length] at ht
  simp [iterInputs, keyInputs, portElem, h, ht]

theorem wf_iterK_blocks {l : List Block} (h1 : 1 ≤ l.length) (h256 : l.length < 256) :
    (Instr.iterK (BitVec.ofNat 8 l.length) (BitVec.ofNat 16 l.length)).wf = true := by
  simp only [Instr.wf, keyCountOk, BitVec.toNat_ofNat, Bool.and_eq_true, decide_eq_true_eq]
  omega

/-- ITER.K over a list of key Blocks that fits its fields (R126). -/
theorem runCommands_iterK_blocks {s t : State} {e : Engine} (h : Serves s .raw e t) {l : List Block}
    (h1 : 1 ≤ l.length) (h256 : l.length < 256) (cs : List Command) :
    ∃ u, runCommands ((.iterK (BitVec.ofNat 8 l.length) (BitVec.ofNat 16 l.length), blocksIn none (some l)) :: cs) t =
      runCommands cs u ∧ Serves s .raw (engineRun (cfgOf s.cfg) false (keyInputs l) e).1 u := by
  have hnk : (BitVec.ofNat 8 l.length).toNat = l.length := by rw [BitVec.toNat_ofNat]; omega
  have hcount : (BitVec.ofNat 16 l.length).toNat = l.length := by rw [BitVec.toNat_ofNat]; omega
  have hexec := exec_iterInstr_of_fits (P := false) (O := false) (K := true) (nk := BitVec.ofNat 8 l.length)
    (count := BitVec.ofNat 16 l.length) (s := setDin (blocksIn none (some l)) t) h.fault h.phase (fits_none _)
    (fits_some hnk.symm)
  rw [hnk, hcount, setDin_din, iterInputs_keys rfl] at hexec
  refine ⟨_, runCommands_cons (c := (.iterK _ _, _)) (wf_iterK_blocks h1 h256) hexec cs,
    ⟨h.fault, h.phase, h.straps, ?_⟩⟩
  obtain ⟨-, -, ⟨-, -, hc⟩, rfl⟩ := h
  exact congrArg (fun c => (engineRun (cfgOf c) false (keyInputs l) t.eng).1) hc

/-- ITER for a count of blank steps (R122). -/
theorem exec_iter_blank {s : State} (m : BitVec 8) (hf : s.fault = false) (hr : s.phase = .raw) :
    exec (.iter (m.setWidth 16)) (setDin noPorts s) =
      .next (finished (setDin noPorts s) (engineRun (cfgOf s.cfg) false (emptyInputs m.toNat) s.eng).1 [] []) := by
  have hm : (m.setWidth 16).toNat = m.toNat := by
    rw [BitVec.toNat_setWidth]
    omega
  have hexec := exec_iterInstr_of_fits (P := false) (O := false) (K := false) (nk := 0) (count := m.setWidth 16)
    (s := setDin noPorts s) hf hr (fits_none _) (fits_none _)
  rw [iterInputs_empty, hm, runOf, engineRun_quiet] at hexec
  exact hexec

theorem keyBlockCount_bounds (y : List Byte) : 1 ≤ keyBlockCount y ∧ keyBlockCount y < 256 := by
  rw [keyBlockCount]
  split <;> decide

/-- The setup engine by its three parts. -/
theorem setupEngine_eq (s : State) (key iv : List Byte) :
    setupEngine s key iv =
      (engineRun (cfgOf s.cfg) false (emptyInputs s.nblank.toNat)
        (engineRun (cfgOf s.cfg) false (keyInputs (keyBlocks s.order iv))
          (engineRun (cfgOf s.cfg) false (keyInputs (keyBlocks s.order key)) Engine.zero).1).1).1 := by
  rw [setupEngine, cipherInputs, engineRun_append, engineRun_append]

/-- Settles O28: the four commands run the three parts of the setup's inputs from the zero engine. -/
theorem cipherInitIsItsEngineCommands : Obligations.CipherInitIsItsEngineCommands := by
  intro s ivlen klen key iv hf hk32 hk64 hv32 hv64 hkl hvl
  have hinit := exec_cipherInit_of_legal (s := setDin ⟨none, none, some key, some iv⟩ s) hf hk32 hk64 hv32 hv64 rfl hkl
    rfl hvl
  obtain ⟨hk1, hk256⟩ := (keyBlocks_length s.order key) ▸ keyBlockCount_bounds key
  obtain ⟨hv1, hv256⟩ := (keyBlocks_length s.order iv) ▸ keyBlockCount_bounds iv
  obtain ⟨t0, h0, hs0⟩ := runCommands_reset hf _
  obtain ⟨t1, h1, hs1⟩ := runCommands_iterK_blocks hs0 hk1 hk256 _
  obtain ⟨t2, h2, hs2⟩ := runCommands_iterK_blocks hs1 hv1 hv256 _
  have hblank := exec_iter_blank s.nblank hs2.fault hs2.phase
  obtain ⟨-, -, ⟨-, -, hc⟩, heng⟩ := hs2
  refine ⟨_, _, hinit, h0.trans (h1.trans (h2.trans (runCommands_singleton rfl hblank))), ?_, rfl, rfl⟩
  change (engineRun (cfgOf t2.cfg) false (emptyInputs s.nblank.toNat) t2.eng).1 = setupEngine s key iv
  rw [setupEngine_eq, hc, heng]

/-! ### CRYPT (43_cipher.md R214) -/

theorem runCommands_crypt {s : State} {key iv : List Byte} {len : Nat} (hf : s.fault = false)
    (hk32 : 32 ≤ key.length) (hk64 : key.length ≤ 64) (hv32 : 32 ≤ iv.length) (hv64 : iv.length ≤ 64)
    (hlen : len ≤ 32 * 65535) :
    ∃ t, runCommands (cryptCommands key iv len) s = .next t ∧ t.errcode = .ok ∧
      outbOf t = keystream s ((len + 31) / 32) (setupEngine s key iv) := by
  have hk : (BitVec.ofNat 16 key.length).toNat = key.length := by rw [BitVec.toNat_ofNat]; omega
  have hv : (BitVec.ofNat 8 iv.length).toNat = iv.length := by rw [BitVec.toNat_ofNat]; omega
  have hc : (BitVec.ofNat 16 ((len + 31) / 32)).toNat = (len + 31) / 32 := by rw [BitVec.toNat_ofNat]; omega
  have hinit := exec_cipherInit_of_legal (s := setDin ⟨none, none, some key, some iv⟩ s) hf
    (klen := BitVec.ofNat 16 key.length) (ivlen := BitVec.ofNat 8 iv.length) (by omega) (by omega) (by omega) (by omega)
    rfl hk.symm rfl hv.symm
  have hks := exec_cipherKs_keystream (BitVec.ofNat 16 ((len + 31) / 32)) (s := setDin noPorts (finished
    { setDin ⟨none, none, some key, some iv⟩ s with phase := .cipherReady } (setupEngine s key iv) [] [])) hf rfl
  exact ⟨_, (runCommands_cons rfl hinit _).trans (runCommands_singleton rfl hks), rfl,
    congrArg (fun m => keystream s m (setupEngine s key iv)) hc⟩

theorem xorData_length {data ks : List Byte} (h : data.length ≤ ks.length) :
    (xorData data ks).length = data.length := by
  rw [xorData, List.length_zipWith, Nat.min_eq_left h]

/-- Where the keystream covers the data, adding it twice gives the data back. -/
theorem xorData_xorData {data ks : List Byte} (h : data.length ≤ ks.length) :
    xorData (xorData data ks) ks = data := by
  apply List.ext_getElem
  · rw [xorData_length (by rwa [xorData_length h]), xorData_length h]
  · intro i hi hi'
    simp [xorData]

/-- Settles O49: both runs give the keystream of one setup engine, long enough for the data. -/
theorem cryptTwiceIsTheData : Obligations.CryptTwiceIsTheData := by
  intro s s' key iv data hf hf' hst hk32 hk64 hv32 hv64 hlen
  obtain ⟨t, ht, hok, hout⟩ := runCommands_crypt hf hk32 hk64 hv32 hv64 hlen
  obtain ⟨t', ht', hok', hout'⟩ := runCommands_crypt hf' hk32 hk64 hv32 hv64 hlen
  rw [setupEngine_congr hst, keystream_congr hst, ← hout] at hout'
  have hcover : data.length ≤ (outbOf t).length := by
    rw [hout, keystream_length]
    omega
  refine ⟨t, t', ht, ht', hok, hok', xorData_length hcover, ?_⟩
  rw [hout']
  exact xorData_xorData hcover

end Sys2Proof.HostProofs

/-! ### A source call split into commands (30_encoding.md R82) -/

namespace Sys2Proof.SplitProofs

open Sys2Proof.Machine Sys2Proof.Safety Sys2Proof.Claims Sys2Proof.StatusProofs Sys2Proof.EngineProofs
  Sys2Proof.ComposeProofs Sys2Proof.HostProofs

/-- The inputs of the one source call: step `t` takes element `t` of each list. -/
def callInputs (count : Nat) (p k : Option (List Block)) : List StepInput :=
  (List.range count).map fun t => (elemAt p t, elemAt k t)

@[simp] theorem callInputs_length (count : Nat) (p k : Option (List Block)) :
    (callInputs count p k).length = count := by
  simp [callInputs]

theorem callInputs_getElem? {count t : Nat} (h : t < count) (p k : Option (List Block)) :
    (callInputs count p k)[t]? = some (elemAt p t, elemAt k t) := by
  simp [callInputs, h]

/-! ### Lists cut to match -/

theorem elemAt_take {m t : Nat} (h : t < m) (l : Option (List Block)) :
    elemAt (l.map (List.take m)) t = elemAt l t := by
  cases l with
  | none => rfl
  | some x => exact List.getElem?_take_of_lt h

theorem elemAt_drop (m t : Nat) (l : Option (List Block)) : elemAt (l.map (List.drop m)) t = elemAt l (m + t) := by
  cases l with
  | none => rfl
  | some x => exact List.getElem?_drop

theorem keyRest_some_of_le {m : Nat} {x : List Block} (h : x.length ≤ m) : keyRest m (some x) = none := if_pos h

theorem keyRest_some_of_lt {m : Nat} {x : List Block} (h : m < x.length) : keyRest m (some x) = some (x.drop m) :=
  if_neg h.not_ge

/-- An exhausted key list has no more elements than an absent one. -/
theorem elemAt_keyRest (m t : Nat) (k : Option (List Block)) : elemAt (keyRest m k) t = elemAt k (m + t) := by
  cases k with
  | none => rfl
  | some x =>
    rcases Nat.lt_or_ge m x.length with h | h
    · rw [keyRest_some_of_lt h]
      exact List.getElem?_drop
    · rw [keyRest_some_of_le h]
      exact (List.getElem?_eq_none (h.trans (Nat.le_add_right m t))).symm

theorem callInputs_cut (m n : Nat) (p k : Option (List Block)) :
    callInputs (m + n) p k = callInputs m (p.map (List.take m)) (k.map (List.take m)) ++
      callInputs n (p.map (List.drop m)) (keyRest m k) := by
  simp only [callInputs, List.range_add, List.map_append, List.map_map]
  congr 1
  · refine List.map_congr_left fun t ht => ?_
    have htm := List.mem_range.mp ht
    rw [elemAt_take htm, elemAt_take htm]
  · refine List.map_congr_left fun t _ => ?_
    rw [elemAt_drop, elemAt_keyRest]
    rfl

/-! ### Calls whose lists match their count -/

/-- The push list has one Block a step, and the key list, if any, from one Block to one a step. -/
structure Matches (count : Nat) (p k : Option (List Block)) : Prop where
  push : ∀ l, p = some l → l.length = count
  key : ∀ l, k = some l → 1 ≤ l.length ∧ l.length ≤ count

theorem matches_take {m n : Nat} {p k : Option (List Block)} (h : Matches (m + n) p k) (hm : 1 ≤ m) :
    Matches m (p.map (List.take m)) (k.map (List.take m)) := by
  refine ⟨fun l hl => ?_, fun l hl => ?_⟩
  · obtain ⟨x, hx, rfl⟩ := Option.map_eq_some_iff.mp hl
    have hlen := h.push x hx
    rw [List.length_take]
    omega
  · obtain ⟨x, hx, rfl⟩ := Option.map_eq_some_iff.mp hl
    have hlen := h.key x hx
    rw [List.length_take]
    omega

theorem matches_rest {m n : Nat} {p k : Option (List Block)} (h : Matches (m + n) p k) :
    Matches n (p.map (List.drop m)) (keyRest m k) := by
  refine ⟨fun l hl => ?_, fun l hl => ?_⟩
  · obtain ⟨x, hx, rfl⟩ := Option.map_eq_some_iff.mp hl
    have hlen := h.push x hx
    rw [List.length_drop]
    omega
  · obtain ⟨x, rfl, hx⟩ := Option.bind_eq_some_iff.mp hl
    have hle := h.key x rfl
    split at hx
    · cases hx
    · cases hx
      rw [List.length_drop]
      omega

/-! ### One command of a split call -/

theorem iterInstr_wf (P O : Bool) {K : Bool} {nk : BitVec 8} {count : BitVec 16}
    (h : K = true → keyCountOk nk count = true) : (iterInstr P O K nk count).wf = true := by
  cases K with
  | false => cases P <;> cases O <;> rfl
  | true => cases P <;> cases O <;> exact h rfl

/-- A call that fits one command runs its own inputs. -/
theorem iterInputs_call (count : Nat) (p k : Option (List Block)) :
    iterInputs p.isSome k.isSome (k.getD []).length count (blocksIn p k) = callInputs count p k := by
  apply List.ext_getElem (by simp)
  intro t ht _
  rw [iterInputs_length] at ht
  apply Option.some.inj
  rw [← List.getElem?_eq_getElem, ← List.getElem?_eq_getElem, iterInputs_getElem? _ _ _ ht, callInputs_getElem? ht]
  congr 2
  · cases p <;> rfl
  · cases k with
    | none => rfl
    | some x =>
      by_cases hx : t < x.length
      · exact if_pos ⟨rfl, hx⟩
      · exact (if_neg fun h => hx h.2).trans (List.getElem?_eq_none (not_lt.mp hx)).symm

section Call
variable {count : Nat} {p k : Option (List Block)} (hm : Matches count p k) (hc : count ≤ 65535)
  (hk : (k.getD []).length ≤ 255)
include hm hc hk

theorem call_wf (z : Bool) : (iterateCall count p z k).1.wf = true := by
  refine iterInstr_wf _ _ fun hs => ?_
  obtain ⟨x, rfl⟩ := Option.isSome_iff_exists.mp hs
  have hx := hm.key x rfl
  simp only [keyCountOk, BitVec.toNat_ofNat, Bool.and_eq_true, decide_eq_true_eq, Option.getD_some] at hk ⊢
  omega

theorem exec_call {s t : State} {e : Engine} (h : Serves s .raw e t) (z : Bool) :
    ∃ u, exec (iterateCall count p z k).1 (setDin (iterateCall count p z k).2 t) = .next u ∧
      Serves s .raw (engineRun (cfgOf s.cfg) false (callInputs count p k) e).1 u ∧ u.errcode = .ok := by
  have hnk : (BitVec.ofNat 8 (k.getD []).length).toNat = (k.getD []).length := by rw [BitVec.toNat_ofNat]; omega
  have hcount : (BitVec.ofNat 16 count).toNat = count := by rw [BitVec.toNat_ofNat]; omega
  have hfp : Fits p.isSome (BitVec.ofNat 16 count).toNat p := by
    cases p with
    | none => exact fits_none _
    | some x => exact fits_some ((hm.push x rfl).trans hcount.symm)
  have hfk : Fits k.isSome (BitVec.ofNat 8 (k.getD []).length).toNat k := by
    cases k with
    | none => exact fits_none _
    | some x => exact fits_some hnk.symm
  have hexec := exec_iterInstr_of_fits (O := z) (s := setDin (blocksIn p k) t) h.fault h.phase hfp hfk
  rw [hnk, hcount, setDin_din, iterInputs_call] at hexec
  refine ⟨_, hexec, ⟨h.fault, h.phase, h.straps, ?_⟩, rfl⟩
  obtain ⟨-, -, ⟨-, -, hcfg⟩, rfl⟩ := h
  change (engineRun (cfgOf t.cfg) z (callInputs count p k) t.eng).1 = _
  rw [hcfg, engineRun_pull _ z false]

end Call

/-! ### The whole call -/

/-- A first command of `splitLen` steps fits, and so does a call of no more. -/
theorem splitLen_bounds (k : Option (List Block)) : 1 ≤ splitLen k ∧ splitLen k ≤ 65535 := by
  rw [splitLen]
  split <;> decide

theorem key_length_of_le_splitLen {count : Nat} {p k : Option (List Block)} (h : Matches count p k)
    (hle : count ≤ splitLen k) : (k.getD []).length ≤ 255 := by
  cases k with
  | none => exact Nat.zero_le _
  | some x =>
    have hx := h.key x rfl
    rw [splitLen, Option.getD_some] at hle
    rw [Option.getD_some]
    split at hle <;> omega

theorem key_length_of_take (k : Option (List Block)) : ((k.map (List.take (splitLen k))).getD []).length ≤ 255 := by
  cases k with
  | none => exact Nat.zero_le _
  | some x =>
    rw [Option.map_some, Option.getD_some, List.length_take, splitLen, Option.getD_some]
    split <;> omega

theorem runCommands_last {count : Nat} {p k : Option (List Block)} (hm : Matches count p k)
    (hle : count ≤ splitLen k) (z : Bool) {s t : State} {e : Engine} (h : Serves s .raw e t) :
    ∃ u, runCommands [iterateCall count p z k] t = .next u ∧
      Serves s .raw (engineRun (cfgOf s.cfg) false (callInputs count p k) e).1 u ∧ u.errcode = .ok := by
  have hc := hle.trans (splitLen_bounds k).2
  have hk := key_length_of_le_splitLen hm hle
  obtain ⟨u, hu, hs, hok⟩ := exec_call hm hc hk h z
  exact ⟨_, runCommands_singleton (call_wf hm hc hk z) hu, ⟨hs.fault, hs.phase, hs.straps, hs.eng⟩, hok⟩

theorem splitCall_of_le {fuel count : Nat} {k : Option (List Block)} (h : count ≤ splitLen k)
    (p : Option (List Block)) (z : Bool) : splitCall (fuel + 1) count p z k = [iterateCall count p z k] := if_pos h

theorem splitCall_of_add (fuel : Nat) {n : Nat} (hn : 0 < n) (p : Option (List Block)) (z : Bool)
    (k : Option (List Block)) :
    splitCall (fuel + 1) (splitLen k + n) p z k =
      iterateCall (splitLen k) (p.map (List.take (splitLen k))) z (k.map (List.take (splitLen k))) ::
        splitCall fuel n (p.map (List.drop (splitLen k))) z (keyRest (splitLen k) k) := by
  rw [splitCall, if_neg (by omega), Nat.add_sub_cancel_left]

theorem runCommands_splitCall {fuel count : Nat} (hfuel : count ≤ fuel) {p k : Option (List Block)}
    (hm : Matches count p k) (z : Bool) {s t : State} {e : Engine} (h : Serves s .raw e t) :
    ∃ u, runCommands (splitCall fuel count p z k) t = .next u ∧
      Serves s .raw (engineRun (cfgOf s.cfg) false (callInputs count p k) e).1 u ∧ u.errcode = .ok := by
  induction fuel generalizing count p k e t with
  | zero => exact runCommands_last hm (hfuel.trans (Nat.zero_le _)) z h
  | succ fuel ih =>
    rcases Nat.lt_or_ge (splitLen k) count with hlt | hle
    · obtain ⟨n, rfl⟩ := Nat.exists_eq_add_of_lt hlt
      rw [Nat.add_assoc] at hm hfuel ⊢
      obtain ⟨h1, h65535⟩ := splitLen_bounds k
      have hfirst := matches_take hm h1
      have hk := key_length_of_take k
      obtain ⟨u, hu, hs, -⟩ := exec_call hfirst h65535 hk h z
      obtain ⟨v, hv, hrest, hok⟩ := ih (by omega) (matches_rest hm) hs
      refine ⟨v, ?_, ?_, hok⟩
      · rw [splitCall_of_add fuel (Nat.succ_pos n), runCommands_cons (call_wf hfirst h65535 hk z) hu, hv]
      · rw [callInputs_cut, engineRun_append]
        exact hrest
    · rw [splitCall_of_le hle]
      exact runCommands_last hm hle z h

/-- Settles O48: each command runs its part of the call's inputs, by induction on the commands. -/
theorem splitCallsRunTheWholeCall : Obligations.SplitCallsRunTheWholeCall := by
  intro count p z k s hf hr hp hk
  obtain ⟨t, ht, ⟨hft, hpt, -, heng⟩, hok⟩ := runCommands_splitCall (le_refl count) (⟨hp, hk⟩ : Matches count p k) z
    (⟨hf, hr, ⟨rfl, rfl, rfl⟩, rfl⟩ : Serves s .raw s.eng s)
  have hlast := enginesOf_length (cfgOf s.cfg) false (callInputs count p k) s.eng
  rw [callInputs_length] at hlast
  exact ⟨enginesOf (cfgOf s.cfg) (callInputs count p k) s.eng, t, rfl,
    runRel_enginesOf _ (fun t ht => callInputs_getElem? ht p k) _, ht, heng.trans hlast.symm, hpt, hft, hok⟩

end Sys2Proof.SplitProofs
